-- ==== Sys2Proof/Word.lean ====
section
/-! DEFINITION. The word types of the block: bytes, the 16-bit and 32-bit register widths, the 22-byte data
field, the 16-byte key and the 32-byte frame. Every value is an unsigned integer of a stated width
(00_scope.md R8); there are no signed values. -/

namespace Sys2Proof

/-- One byte: an 8-bit register, one element of `DATA` or `KEY`, one byte of `PMEM` or `FMEM`. -/
abbrev Byte := BitVec 8

/-- A 16-bit register, a 2-byte field of a frame, or a command word (30_encoding.md R80). -/
abbrev Half := BitVec 16

/-- A 32-bit register: the lengths (10_state.md R29, R30, R35, R36). -/
abbrev Long := BitVec 32

/-- A data field: `CAP` = 22 bytes, `data[0]` first on the wire (10_state.md R22). Also a cipher block (R10). -/
abbrev Block := Vector Byte 22

/-- A cipher key: `KEY_SIZE` = 16 bytes (10_state.md R23). -/
abbrev Key := Vector Byte 16

/-- One frame on the wire: `FRAME_SIZE` = 32 bytes, offset 0 first (20_memory.md R62). -/
abbrev Frame := Vector Byte 32

end Sys2Proof
end

