-- ==== Sys2Proof/Syntax.lean ====
section
/-! DEFINITION. The commands of the block, one constructor per row of spec/opcode_table.json (30_encoding.md R83). -/

namespace Sys2Proof

/-- The 17 commands (30_encoding.md R83). `CRC.UPD` alone has an operand, the byte `imm8` (R82). -/
inductive Instr where
  /-- `NOP` (43_system.md R180). -/
  | nop
  /-- `CLRERR` (43_system.md R181). -/
  | clrerr
  /-- `CRC.INIT` (40_crc.md R103). -/
  | crcInit
  /-- `CRC.UPD imm8` (40_crc.md R104). -/
  | crcUpd (imm8 : Byte)
  /-- `FMT.BEGIN` (41_formatter.md R123). -/
  | fmtBegin
  /-- `FMT.HDR` (41_formatter.md R124). -/
  | fmtHdr
  /-- `FMT.LOAD` (41_formatter.md R125). -/
  | fmtLoad
  /-- `FMT.ENC` (41_formatter.md R126). -/
  | fmtEnc
  /-- `FMT.CSUM` (41_formatter.md R127). -/
  | fmtCsum
  /-- `FMT.PACK` (41_formatter.md R128). -/
  | fmtPack
  /-- `FRAG` (41_formatter.md R129). -/
  | frag
  /-- `DFM.BEGIN` (42_deformatter.md R154). -/
  | dfmBegin
  /-- `DFM.UNPACK` (42_deformatter.md R155). -/
  | dfmUnpack
  /-- `DFM.CHECK` (42_deformatter.md R156). -/
  | dfmCheck
  /-- `DFM.DEC` (42_deformatter.md R157). -/
  | dfmDec
  /-- `DFM.STORE` (42_deformatter.md R158). -/
  | dfmStore
  /-- `DEFRAG` (42_deformatter.md R159). -/
  | defrag
  deriving DecidableEq, Repr

end Sys2Proof
end

