-- ==== Sys2Proof/Decode.lean ====
section
/-! DEFINITION. The decoder, total on all 65536 command words and rejecting by name (30_encoding.md R86, R84), and the
encoder and the match and mask of each command's row, written from the command map (30_encoding.md R83). -/

namespace Sys2Proof

/-- Why a word is illegal: the two cases of 30_encoding.md R84. -/
inductive IllegalWord where
  /-- R84 (a): the command code is assigned to no command. -/
  | unassignedCode (cc : Byte)
  /-- R84 (b): a format Z command code with `w[7:0]` not zero. -/
  | operandNotZero (cc : Byte) (low : Byte)
  deriving DecidableEq, Repr

/-- `cc = w[15:8]`, the command code (30_encoding.md R81). -/
def codeField (w : Half) : Byte := w.extractLsb' 8 8

/-- `imm8 = w[7:0]`, the operand byte of format B and the zero byte of format Z (30_encoding.md R81, R82). -/
def lowField (w : Half) : Byte := w.extractLsb' 0 8

/-- The format Z command of a command code (30_encoding.md R83). -/
def formatZ (cc : Byte) : Option Instr :=
  if cc = 0x00 then some .nop
  else if cc = 0x01 then some .clrerr
  else if cc = 0x10 then some .crcInit
  else if cc = 0x20 then some .fmtBegin
  else if cc = 0x21 then some .fmtHdr
  else if cc = 0x22 then some .fmtLoad
  else if cc = 0x23 then some .fmtEnc
  else if cc = 0x24 then some .fmtCsum
  else if cc = 0x25 then some .fmtPack
  else if cc = 0x2F then some .frag
  else if cc = 0x30 then some .dfmBegin
  else if cc = 0x31 then some .dfmUnpack
  else if cc = 0x32 then some .dfmCheck
  else if cc = 0x33 then some .dfmDec
  else if cc = 0x34 then some .dfmStore
  else if cc = 0x3F then some .defrag
  else none

/-- The decoding procedure (30_encoding.md R86): total, and it reads no state. -/
def decode (w : Half) : Except IllegalWord Instr :=
  if codeField w = 0x11 then .ok (.crcUpd (lowField w))
  else
    match formatZ (codeField w) with
    | none => .error (.unassignedCode (codeField w))
    | some i => if lowField w = 0x00 then .ok i else .error (.operandNotZero (codeField w) (lowField w))

/-- The `match` of the command's row (30_encoding.md R83). -/
def Instr.rowMatch : Instr → Half
  | .nop => 0x0000
  | .clrerr => 0x0100
  | .crcInit => 0x1000
  | .crcUpd _ => 0x1100
  | .fmtBegin => 0x2000
  | .fmtHdr => 0x2100
  | .fmtLoad => 0x2200
  | .fmtEnc => 0x2300
  | .fmtCsum => 0x2400
  | .fmtPack => 0x2500
  | .frag => 0x2F00
  | .dfmBegin => 0x3000
  | .dfmUnpack => 0x3100
  | .dfmCheck => 0x3200
  | .dfmDec => 0x3300
  | .dfmStore => 0x3400
  | .defrag => 0x3F00

/-- The `mask` of the command's row (30_encoding.md R83): format B leaves `imm8` open, format Z fixes all 16 bits. -/
def Instr.rowMask : Instr → Half
  | .crcUpd _ => 0xFF00
  | .nop | .clrerr | .crcInit | .fmtBegin | .fmtHdr | .fmtLoad | .fmtEnc | .fmtCsum | .fmtPack | .frag
  | .dfmBegin | .dfmUnpack | .dfmCheck | .dfmDec | .dfmStore | .defrag => 0xFFFF

/-- The word of a command (30_encoding.md R83): its row's `match`, with `imm8` in bits 7 to 0 for `CRC.UPD`. -/
def encode (i : Instr) : Half :=
  match i with
  | .crcUpd imm8 => i.rowMatch ||| imm8.zeroExtend 16
  | .nop | .clrerr | .crcInit | .fmtBegin | .fmtHdr | .fmtLoad | .fmtEnc | .fmtCsum | .fmtPack | .frag
  | .dfmBegin | .dfmUnpack | .dfmCheck | .dfmDec | .dfmStore | .defrag => i.rowMatch

/-- The command the decoder reads from an opcode-table word of `nbits` bits (every bit from `nbits` up is 0). A
command is one 16-bit word, so the word is given to `decode` as it stands. -/
def decodeTableWord (nbits w : Nat) : Option Instr :=
  match decode (BitVec.ofNat 16 (w % 2 ^ nbits)) with
  | .ok i => some i
  | .error _ => none

end Sys2Proof
end

