-- ==== Sys2Proof/Config.lean ====
section
/-! DEFINITION. What an implementation fixes: the parameters of 00_scope.md R5. The fixed ones are numbers; the
OPEN ones (93_implementation_defined.md Q1 to Q4, U1, U4) are opaque constants, so that nothing can be proved of their
values. The command bodies take a `Params`, so that the vectors of 95_test_vectors.md can be checked
with the values those vectors take; the machine itself runs with `Config.params`. -/

namespace Sys2Proof

/-- `CAP`: bytes of payload one data field can carry (00_scope.md R5). -/
abbrev cap : Nat := 22

/-- `FRAME_SIZE`: bytes of one frame on the wire (00_scope.md R5). -/
abbrev frameSize : Nat := 32

/-- `CRC_INIT`: the initial accumulator value (00_scope.md R5, 40_crc.md R101). -/
abbrev crcInitial : Half := 0xFFFF

/-- `CRC_POLY` (00_scope.md R5, 40_crc.md R100). -/
abbrev crcPoly : Half := 0x1021

/-- The parameters of 00_scope.md R5 that no source gives a value, and the arbitrary initial contents of the two
memories (U1). They are no state of the block (10_state.md R20). -/
structure Params where
  /-- `START_FLAG` (Q1). -/
  startFlag : Byte
  /-- `END_FLAG` (Q2). -/
  endFlag : Byte
  /-- `OPCODE_RESET` (Q3). -/
  opcodeReset : Half
  /-- The number of the last frame slot, `NSLOT - 1`, so that `NSLOT` is 1 to 65535 by its type (Q4). -/
  lastSlot : Fin 65535
  /-- `Enc(k, d)` of the cipher port (00_scope.md R10, U4). -/
  enc : Key → Block → Block
  /-- `Dec(k, d)` of the cipher port (00_scope.md R10, U4). -/
  dec : Key → Block → Block
  /-- The byte of `PMEM` at an address that nothing has written since the `Reset` that began the given epoch (U1). -/
  pmemInit : Nat → Nat → Byte
  /-- The byte of `FMEM` at an address that nothing has written since the `Reset` that began the given epoch (U1). -/
  fmemInit : Nat → Nat → Byte

/-- `NSLOT`, the number of frame slots, 1 to 65535 (00_scope.md R5). -/
def Params.nslot (p : Params) : Nat := p.lastSlot.val + 1

/-- `PMEM_SIZE = NSLOT * CAP` (10_state.md R40). -/
def Params.pmemSize (p : Params) : Nat := p.nslot * cap

/-- The size of `FMEM`: `NSLOT` slots of `FRAME_SIZE` bytes (10_state.md R41). -/
def Params.fmemSize (p : Params) : Nat := p.nslot * frameSize

/-- `START_FLAG`: no source gives it (D5). Free (log 5). -/
opaque Config.startFlag : Byte
/-- `END_FLAG`: no source gives it (D5). Free (log 5). -/
opaque Config.endFlag : Byte
/-- `OPCODE_RESET`: no source gives it (D6). Free (log 5). -/
opaque Config.opcodeReset : Half
/-- `NSLOT - 1`: no source gives `NSLOT` (D15). Free (log 5). -/
opaque Config.lastSlot : Fin 65535
/-- `Enc`: an uninterpreted total function (D17). Free (log 6). -/
opaque Config.enc : Key → Block → Block
/-- `Dec`: an uninterpreted total function; that it inverts `Enc` is not assumed (D17). Free (log 6). -/
opaque Config.dec : Key → Block → Block
/-- The unspecified contents of `PMEM` after a `Reset`, by epoch and address (U1, D30). Free (log 3). -/
opaque Config.pmemInit : Nat → Nat → Byte
/-- The unspecified contents of `FMEM` after a `Reset`, by epoch and address (U1, D30). Free (log 3). -/
opaque Config.fmemInit : Nat → Nat → Byte

/-- The parameters the machine runs with. -/
def Config.params : Params where
  startFlag := Config.startFlag
  endFlag := Config.endFlag
  opcodeReset := Config.opcodeReset
  lastSlot := Config.lastSlot
  enc := Config.enc
  dec := Config.dec
  pmemInit := Config.pmemInit
  fmemInit := Config.fmemInit

end Sys2Proof
end

