-- ==== Sys2Proof/HostAction.lean ====
section
/-! DEFINITION. What the host can do to the block: the action lines of 30_encoding.md R87 and the `Reset` event of
70_reset_and_hazards.md R220. -/

namespace Sys2Proof

/-- One host action, the unit of behaviour (00_scope.md R6). A command is a write of its word to register number
`0x00`, `CMD` (10_state.md R26). -/
inductive HostAction where
  /-- `RegRead(n)` of register number `n` (10_state.md R39). -/
  | regRead (n : Byte)
  /-- `RegWrite(n, v)` with `v` any natural number (10_state.md R39). -/
  | regWrite (n : Byte) (v : Nat)
  /-- The host reads one byte of `PMEM` (20_memory.md R69). -/
  | pmRead (a : Nat)
  /-- The host writes one byte of `PMEM` (20_memory.md R69). -/
  | pmWrite (a : Nat) (b : Byte)
  /-- The host reads one byte of `FMEM` (20_memory.md R69). -/
  | fmRead (a : Nat)
  /-- The host writes one byte of `FMEM` (20_memory.md R69). -/
  | fmWrite (a : Nat) (b : Byte)
  /-- The `Reset` event (70_reset_and_hazards.md R220). -/
  | reset
  deriving DecidableEq, Repr

/-- Issue the command word `w`: `RegWrite(CMD, w)` (30_encoding.md R87). -/
abbrev HostAction.command (w : Half) : HostAction := .regWrite 0x00 w.toNat

end Sys2Proof
end

