-- ==== Sys2Proof/Machine/State.lean ====
section
/-! DEFINITION. The state of the block, the results a command can have, the reasons a step can stop, and the
machine right after `Reset`. State is plain data: the block's own state is exactly the list of 10_state.md R20, and
three fields at the end are the model's own (the host's side of a run, R232, and the epoch of U1). -/

namespace Sys2Proof.Machine

/-- The bytes written to a memory since the last `Reset`, by address, rising. What an address that is not listed
reads as is `pmemByte` and `fmemByte` in Ops.lean. The canonical form is `Memory.wf` there. -/
abbrev Memory := List Host.Cell

/-- The result of a command (00_scope.md R11, 60_exceptions.md R191). The codes are `Result.code` in Flags.lean. -/
inductive Result where
  /-- No error. -/
  | ok
  /-- `frame_count(LEN) > MAXF`. -/
  | capacityExceeded
  /-- The recomputed header checksum differs from the stored one. -/
  | checksumMismatch
  /-- The checksum matched and `EXP /= NFR`. -/
  | sequenceIncomplete
  /-- `EXPLICIT` mode and `len_ok` fails. -/
  | truncationAmbiguous
  /-- The word matches no row of the command map. -/
  | illegalCommand
  /-- `KEYV = 0`. -/
  | noKey
  /-- There is no frame `FIDX` in the sequence. -/
  | opRange
  deriving DecidableEq, Repr

/-- Why a step stops with a fault. The spec has none: no reachable state gets to one (10_state.md R43, 20_memory.md
R66, R67). They stand for the states no run reaches (log 7). -/
inductive Fault where
  /-- A command formed a `PMEM` address at or beyond `PMEM_SIZE`. Raised by `FMT.LOAD`, `DFM.STORE`, `FRAG`, `DEFRAG`
  in states outside the invariants of 10_state.md R43. Safe: the model stops. -/
  | pmemAddress (a : Nat)
  /-- A command formed an `FMEM` address at or beyond `NSLOT * 32`. Raised by `FMT.PACK`, `DFM.UNPACK`, `FRAG`,
  `DEFRAG` in states outside the invariants of 10_state.md R43. Safe: the model stops. -/
  | fmemAddress (a : Nat)
  deriving DecidableEq, Repr

/-- Why a step has no meaning. -/
inductive Refusal where
  /-- An instruction that has no meaning yet. Raised by no arm of `exec`: all 17 are modelled. Safe. -/
  | notModelled (mnemonic : String)
  /-- The host accessed a `PMEM` byte that does not exist: "the spec gives it no meaning and a model refuses it"
  (20_memory.md R69, U2). Raised by the host's byte accesses only. Safe: the model has no step. -/
  | hostPmemRange (a : Nat)
  /-- The host accessed an `FMEM` byte that does not exist (20_memory.md R69, U2). Raised by the host's byte accesses
  only. Safe: the model has no step. -/
  | hostFmemRange (a : Nat)
  deriving DecidableEq, Repr

/-- The state of the block (10_state.md R20) and, last, the model's own three fields. -/
@[ext]
structure State where
  /-- Start flag of the frame being built or checked (R21). -/
  sflag : Byte
  /-- Frame opcode (R21). -/
  opc : Half
  /-- Packet count (R21). -/
  pkt : Half
  /-- Expected count (R21). -/
  exp : Half
  /-- Checksum (R21). -/
  csum : Half
  /-- End flag (R21). -/
  eflag : Byte
  /-- `DATA[0..21]`, the data field (R22). -/
  data : Block
  /-- `KEY[0..15]`, write-only for the host (R23). -/
  key : Key
  /-- `KEYW[0..15]`, the written flags (R23). -/
  keyw : Vector Bool 16
  /-- `ACC`, the CRC accumulator (R24). -/
  acc : Half
  /-- `STATUS.ERR` (R27). -/
  err : BitVec 3
  /-- `STATUS.STKERR` (R27). -/
  stkerr : BitVec 3
  /-- `CTRL` (R28); bits 7 to 2 are never set. -/
  ctrl : Byte
  /-- `LEN` (R29). -/
  len : Long
  /-- `TLEN` (R30). -/
  tlen : Long
  /-- `COUNT` (R31). -/
  count : Half
  /-- `FIDX` (R32). -/
  fidx : Half
  /-- `MAXF` (R33). -/
  maxf : Half
  /-- `NFR` (R34). -/
  nfr : Half
  /-- `RXLEN` (R35). -/
  rxlen : Long
  /-- `OUTLEN` (R36). -/
  outlen : Long
  /-- `OPCFG` (R37). -/
  opcfg : Half
  /-- `PMEM` (R40): the bytes written since the last `Reset`. -/
  pmem : Memory
  /-- `FMEM` (R41): the bytes written since the last `Reset`. -/
  fmem : Memory
  /-- The model's own: how many `Reset` actions there have been. It selects the arbitrary memory contents (U1, log 3). -/
  epoch : Nat
  /-- The model's own: the host actions still to be applied, oldest first (70_reset_and_hazards.md R232, log 1). -/
  todo : List HostAction
  /-- The model's own: the values the host's reads have returned, oldest first (10_state.md R39, log 2). -/
  seen : List Nat
  deriving DecidableEq, Repr

/-- The reset values of 10_state.md R44. `KEY` is unspecified there: zeros are a DESIGN CHOICE (log 4). The memories are
unspecified there: nothing is listed, and an unlisted byte is a free value (log 3). -/
def State.resetOf (p : Params) : State where
  sflag := 0
  opc := 0
  pkt := 0
  exp := 0
  csum := 0
  eflag := 0
  data := Vector.replicate 22 0
  key := Vector.replicate 16 0
  keyw := Vector.replicate 16 false
  acc := crcInitial
  err := 0
  stkerr := 0
  ctrl := 0
  len := 0
  tlen := 0
  count := 0
  fidx := 0
  maxf := BitVec.ofNat 16 p.nslot
  nfr := 0
  rxlen := 0
  outlen := 0
  opcfg := p.opcodeReset
  pmem := []
  fmem := []
  epoch := 0
  todo := []
  seen := []

/-- The machine right after `Reset` (10_state.md R44, 70_reset_and_hazards.md R220), with no host action to apply. -/
def State.reset : State := State.resetOf Config.params

/-- How the body of a command ends (00_scope.md R9): with a result, keeping the assignments made so far, or (in
a state no run reaches) with a fault. -/
inductive Ran where
  /-- `return OK` or `raise r`, with the state as the assignments left it. -/
  | ended (s : State) (r : Result)
  /-- The body formed an address that does not exist. -/
  | faulted (f : Fault)
  deriving DecidableEq, Repr

end Sys2Proof.Machine
end

