-- ==== Sys2Proof/Machine/Flags.lean ====
section
/-! DEFINITION. The block's only flags (10_state.md R27, R28): the result codes, the result write-back that every
command ends with, the `STATUS` word the host reads, and the fields of `CTRL`. -/

namespace Sys2Proof.Machine

/-- The code of a result (60_exceptions.md R191). -/
def Result.code : Result → BitVec 3
  | .ok => 0
  | .capacityExceeded => 1
  | .checksumMismatch => 2
  | .sequenceIncomplete => 3
  | .truncationAmbiguous => 4
  | .illegalCommand => 5
  | .noKey => 6
  | .opRange => 7

/-- The result write-back (60_exceptions.md R193): `ERR` takes the code, `STKERR` the first non-zero code. -/
def writeBack (r : Result) (s : State) : State :=
  { s with
    err := r.code
    stkerr := if r.code ≠ 0 ∧ s.stkerr = 0 then r.code else s.stkerr }

/-- `KEYV`: 1 exactly when all sixteen key bytes have been written since reset (10_state.md R23). -/
def keyValid (s : State) : Bool := s.keyw.toList.all (fun written => written)

/-- The `STATUS` word (10_state.md R27): `ERR` in bits 2:0, `STKERR` in 5:3, `KEYV` in 6, 0 in 7. -/
def statusWord (s : State) : Byte := (0#1 ++ BitVec.ofBool (keyValid s)) ++ (s.stkerr ++ s.err)

/-- The bits of `CTRL` that exist; the others drop what is written and read 0 (10_state.md R28). -/
def ctrlMask : Byte := 0x03

/-- `CTRL.LENMODE`, bit 0: false is `EXPLICIT`, true is `ZSCAN` (10_state.md R28). -/
def lenModeBit (ctrl : Byte) : Bool := ctrl.getLsbD 0

/-- `CTRL.LENV`, bit 1 (10_state.md R28). -/
def lenValid (ctrl : Byte) : Bool := ctrl.getLsbD 1

end Sys2Proof.Machine
end

