-- ==== Sys2Proof/Machine/Operands.lean ====
section
/-! DEFINITION. What the commands work on: the wire layout of a frame (20_memory.md R61 to R65), the counts and
lengths of the transmit path (41_formatter.md R121, R122) and the length policy of the receive path (42_deformatter.md
R151 to R153). All pure functions. -/

namespace Sys2Proof.Machine

/-- `enc16`: the byte at the lower offset is bits 15 to 8 (20_memory.md R61). -/
def enc16 (v : Half) : List Byte := [v.extractLsb' 8 8, v.extractLsb' 0 8]

/-- `dec16([b0, b1]) = {b0, b1}` (20_memory.md R61). -/
def dec16 (b0 b1 : Byte) : Half := b0 ++ b1

/-- The fields of one frame, in the order of the wire (20_memory.md R62). -/
structure Fields where
  /-- Start flag, offset 0. -/
  sflag : Byte
  /-- Frame opcode, offsets 1 and 2. -/
  opc : Half
  /-- Packet count, offsets 3 and 4. -/
  pkt : Half
  /-- Expected count, offsets 5 and 6. -/
  exp : Half
  /-- Data field, offsets 7 to 28. -/
  data : Block
  /-- Checksum, offsets 29 and 30. -/
  csum : Half
  /-- End flag, offset 31. -/
  eflag : Byte
  deriving DecidableEq, Repr

/-- `header_bytes`: frame offsets 0 to 6 (20_memory.md R63). -/
def headerBytes (sflag : Byte) (opc pkt exp : Half) : List Byte :=
  [sflag] ++ enc16 opc ++ enc16 pkt ++ enc16 exp

/-- The bytes of a frame in wire order (20_memory.md R64). -/
def wireBytes (x : Fields) : List Byte :=
  headerBytes x.sflag x.opc x.pkt x.exp ++ x.data.toList ++ enc16 x.csum ++ [x.eflag]

/-- A frame is 32 bytes: 1 + 2 + 2 + 2 + 22 + 2 + 1 (20_memory.md R62). -/
theorem wireBytes_length (x : Fields) : (wireBytes x).length = 32 := by
  simp [wireBytes, headerBytes, enc16]

/-- `pack`: the 32 wire bytes; it copies the checksum as given (20_memory.md R64). -/
def pack (x : Fields) : Frame := Vector.mk (wireBytes x).toArray (wireBytes_length x)

/-- `unpack`: total, and it checks nothing (20_memory.md R65). -/
def unpack (f : Frame) : Fields where
  sflag := f[0]
  opc := dec16 f[1] f[2]
  pkt := dec16 f[3] f[4]
  exp := dec16 f[5] f[6]
  data := Vector.ofFn fun j : Fin 22 => f[7 + j.val]
  csum := dec16 f[29] f[30]
  eflag := f[31]

/-- `frame_count(L) = ceil(L / CAP)`, in natural numbers (41_formatter.md R121). -/
def frameCount (len : Nat) : Nat := (len + cap - 1) / cap

/-- `chunk_len(L, i) = min(CAP, L - CAP*i)`, the real bytes of frame `i` (41_formatter.md R122). -/
def chunkLen (len i : Nat) : Nat := min cap (len - cap * i)

/-- The last-frame length policy, `CTRL.LENMODE` (10_state.md R28). -/
inductive LenMode where
  /-- `EXPLICIT`: the side-band length `RXLEN` decides; the normative policy. -/
  | explicit
  /-- `ZSCAN`: the reference's first-zero-byte scan. -/
  | zscan
  deriving DecidableEq, Repr

/-- `len_ok`: the last frame's real length can be determined (42_deformatter.md R151). -/
def lenOk (n : Nat) (mode : LenMode) (lenv : Bool) (rxlen : Nat) : Bool :=
  match mode with
  | .zscan => true
  | .explicit => lenv && decide (frameCount rxlen = n)

/-- `zscan`: the index of the first zero byte, or `CAP` when there is none (42_deformatter.md R153). -/
def zscan (plain : Block) : Nat := plain.toList.findIdx (fun b => b == 0)

/-- `real_len`: the real bytes of frame `i` of `n`, when `len_ok` holds (42_deformatter.md R152). -/
def realLen (i n : Nat) (mode : LenMode) (rxlen : Nat) (plain : Block) : Nat :=
  if i < n - 1 then cap
  else
    match mode with
    | .explicit => rxlen - cap * (n - 1)
    | .zscan => zscan plain

end Sys2Proof.Machine
end

