-- ==== Sys2Proof/Machine/Ops.lean ====
section
/-! DEFINITION. The named operations every command is written with: the two byte memories, how a command raises
an error, goes on and ends (the block's whole exception mechanism, 60_exceptions.md R190, R193), and the named updates
of the state. -/

namespace Sys2Proof.Machine

/-! ### Byte memories -/

/-- The value written last to an address since the last `Reset`, if any. -/
def Memory.lookup : Memory → Nat → Option Byte
  | [], _ => none
  | c :: m, a => if c.1 = a then some c.2 else Memory.lookup m a

/-- Write one byte, keeping the addresses rising (20_memory.md R69). -/
def Memory.write : Memory → Nat → Byte → Memory
  | [], a, b => [(a, b)]
  | c :: m, a, b =>
    if a < c.1 then (a, b) :: c :: m
    else if a = c.1 then (a, b) :: m
    else c :: Memory.write m a b

/-- Write bytes one by one at rising addresses from `base` (20_memory.md R69). -/
def Memory.writeBytes : Memory → Nat → List Byte → Memory
  | m, _, [] => m
  | m, base, b :: bs => Memory.writeBytes (Memory.write m base b) (base + 1) bs

/-- The canonical form: addresses strictly rise. An unlisted address has no written value, so no entry equals what
an unlisted address holds (log 3). -/
abbrev Memory.wf (m : Memory) : Prop := m.Pairwise (fun c d => c.1 < d.1)

/-- `MemRead(PMEM, a, 1)`: the byte written last, or the arbitrary byte the memory held after the last `Reset`
(20_memory.md R60, 93_implementation_defined.md U1). -/
def pmemByte (p : Params) (s : State) (a : Nat) : Byte := (s.pmem.lookup a).getD (p.pmemInit s.epoch a)

/-- `MemRead(FMEM, a, 1)`: the byte written last, or the arbitrary byte the memory held after the last `Reset`
(20_memory.md R60, 93_implementation_defined.md U1). -/
def fmemByte (p : Params) (s : State) (a : Nat) : Byte := (s.fmem.lookup a).getD (p.fmemInit s.epoch a)

/-- Every address of the `n` bytes from `base` lies below `size`; no address is formed when `n = 0`. -/
def spanOk (size base n : Nat) : Bool := decide (n = 0 ∨ base + n ≤ size)

/-- The address of byte 0 of chunk `i` (20_memory.md R67). -/
def chunkBase (i : Nat) : Nat := cap * i

/-- The address of offset 0 of slot `i` (20_memory.md R66). -/
def slotBase (i : Nat) : Nat := frameSize * i

/-- The 32 bytes of slot `i` (20_memory.md R66). -/
def readSlot (p : Params) (s : State) (i : Nat) : Frame :=
  Vector.ofFn fun o : Fin 32 => fmemByte p s (slotBase i + o.val)

/-! ### How a command goes on and ends -/

/-- `raise r`: the command ends at once with result `r`; assignments already made are kept (00_scope.md R9,
60_exceptions.md R190). -/
def raise (r : Result) (s : State) : Ran := .ended s r

/-- The body goes on to its end: `return OK` (00_scope.md R9). -/
def done (s : State) : Ran := .ended s .ok

/-- Execute one body, then the next one unless the first raised (41_formatter.md R129, 42_deformatter.md R159). -/
def Ran.andThen (x : Ran) (k : State → Ran) : Ran :=
  match x with
  | .ended s .ok => k s
  | .ended s .capacityExceeded => .ended s .capacityExceeded
  | .ended s .checksumMismatch => .ended s .checksumMismatch
  | .ended s .sequenceIncomplete => .ended s .sequenceIncomplete
  | .ended s .truncationAmbiguous => .ended s .truncationAmbiguous
  | .ended s .illegalCommand => .ended s .illegalCommand
  | .ended s .noKey => .ended s .noKey
  | .ended s .opRange => .ended s .opRange
  | .faulted f => .faulted f

/-- Go on with the `n` bytes of `PMEM` from `base`, which a reachable state always has (20_memory.md R67, log 7). -/
def withPmemSpan (p : Params) (base n : Nat) (x : Ran) : Ran :=
  if spanOk p.pmemSize base n then x else .faulted (.pmemAddress (max base p.pmemSize))

/-- Go on with the `n` bytes of `FMEM` from `base`, which a reachable state always has (20_memory.md R66, log 7). -/
def withFmemSpan (p : Params) (base n : Nat) (x : Ran) : Ran :=
  if spanOk p.fmemSize base n then x else .faulted (.fmemAddress (max base p.fmemSize))

/-- A command ends: what plays the role of trap entry is the write of its result code into `STATUS`, once, whatever
the result (60_exceptions.md R190, R193). There is no return from it and nothing to restore (R195). -/
def finish (x : Ran) : Host.Outcome State Fault Refusal :=
  match x with
  | .ended s r => .next (writeBack r s)
  | .faulted f => .fault f

/-! ### Named updates -/

/-- `STKERR <- 0` (43_system.md R181). -/
def State.clearSticky (s : State) : State := { s with stkerr := 0 }

/-- `ACC <- a`. -/
def State.setAcc (s : State) (a : Half) : State := { s with acc := a }

/-- `ACC <- c ; CSUM <- ACC` (41_formatter.md R127). -/
def State.setChecksum (s : State) (c : Half) : State := { s with acc := c, csum := c }

/-- `DATA[0..21] <- d`. -/
def State.setData (s : State) (d : Block) : State := { s with data := d }

/-- `FIDX <- 0 ; TLEN <- len ; COUNT <- c` (41_formatter.md R123). -/
def State.startTransmit (s : State) (len : Long) (c : Half) : State :=
  { s with fidx := 0, tlen := len, count := c }

/-- The five header registers of `FMT.HDR` (41_formatter.md R124). -/
def State.setHeader (s : State) (sflag : Byte) (opc pkt exp : Half) (eflag : Byte) : State :=
  { s with sflag := sflag, opc := opc, pkt := pkt, exp := exp, eflag := eflag }

/-- The slot is written and `FIDX <- FIDX + 1` (41_formatter.md R128). -/
def State.advancePacked (s : State) (m : Memory) : State := { s with fmem := m, fidx := s.fidx + 1 }

/-- `FIDX <- 0 ; OUTLEN <- 0` (42_deformatter.md R154). -/
def State.startReceive (s : State) : State := { s with fidx := 0, outlen := 0 }

/-- All six frame registers and `DATA` (42_deformatter.md R155). -/
def State.setFields (s : State) (x : Fields) : State :=
  { s with
    sflag := x.sflag, opc := x.opc, pkt := x.pkt, exp := x.exp, data := x.data, csum := x.csum, eflag := x.eflag }

/-- The bytes are stored, `OUTLEN <- n ; FIDX <- FIDX + 1` (42_deformatter.md R158). -/
def State.advanceStored (s : State) (m : Memory) (n : Long) : State :=
  { s with pmem := m, outlen := n, fidx := s.fidx + 1 }

/-- The host's next action is taken from the list of actions still to be applied (log 1). -/
def State.setTodo (s : State) (rest : List HostAction) : State := { s with todo := rest }

/-- A read returns `v` to the host (log 2); the block's own state is unchanged (10_state.md R39, 20_memory.md R69). -/
def State.returned (s : State) (v : Nat) : State := { s with seen := s.seen ++ [v] }

/-- The frame the registers hold (10_state.md R21, R22). -/
def State.fields (s : State) : Fields where
  sflag := s.sflag
  opc := s.opc
  pkt := s.pkt
  exp := s.exp
  data := s.data
  csum := s.csum
  eflag := s.eflag

end Sys2Proof.Machine
end

