-- ==== Sys2Proof/Machine/Crc.lean ====
section
/-! DEFINITION. The checksum engine (40_crc.md): `crc_step`, `crc16`, `hdr_csum` and the two streaming commands. -/

namespace Sys2Proof.Machine

/-- One iteration of `crc_step`: the high bit is tested before the shift; the bit shifted out is lost and the bit
shifted in is 0 (40_crc.md R100). -/
def crcBit (a : Half) : Half := if a.getLsbD 15 then (a <<< 1) ^^^ crcPoly else a <<< 1

/-- `n` iterations of `crcBit`. -/
def crcBits : Nat → Half → Half
  | 0, a => a
  | n + 1, a => crcBits n (crcBit a)

/-- `crc_step(a, b)`: the byte is XORed into bits 15 to 8, then 8 bits are consumed, most significant first
(40_crc.md R100). -/
def crcStep (a : Half) (b : Byte) : Half := crcBits 8 (a ^^^ (b.zeroExtend 16 <<< 8))

/-- `crc16`: from `0xFFFF`, bytes first to last, no augmentation, no final XOR (40_crc.md R101). -/
def crc16 (bytes : List Byte) : Half := bytes.foldl crcStep crcInitial

/-- `hdr_csum`: the CRC of the seven wire bytes at frame offsets 0 to 6 (40_crc.md R108). -/
def hdrCsum (sflag : Byte) (opc pkt exp : Half) : Half := crc16 (headerBytes sflag opc pkt exp)

/-- The header checksum of the frame registers. It starts from `0xFFFF`, not from `ACC` (40_crc.md R102). -/
def State.headerChecksum (s : State) : Half := hdrCsum s.sflag s.opc s.pkt s.exp

/-- `CRC.INIT`: `ACC <- 0xFFFF` (40_crc.md R103). -/
def crcInit (s : State) : Ran := done (s.setAcc crcInitial)

/-- `CRC.UPD imm8`: `ACC <- crc_step(ACC, imm8)` (40_crc.md R104). -/
def crcUpd (imm8 : Byte) (s : State) : Ran := done (s.setAcc (crcStep s.acc imm8))

/-- `CRC.INIT` with its write-back (40_crc.md R103, 60_exceptions.md R193). -/
def execCrcInit (s : State) : Host.Outcome State Fault Refusal := finish (crcInit s)

/-- `CRC.UPD imm8` with its write-back (40_crc.md R104, 60_exceptions.md R193). -/
def execCrcUpd (imm8 : Byte) (s : State) : Host.Outcome State Fault Refusal := finish (crcUpd imm8 s)

end Sys2Proof.Machine
end

