-- ==== Sys2Proof/Machine/Deformatter.lean ====
section
/-! DEFINITION. The receive path (42_deformatter.md): the five micro-commands and `DEFRAG`. A body (`dfmCheck`, ...) is
the pseudocode of its rule, without the write-back, so that `DEFRAG` can execute it; `exec…` adds the write-back. -/

namespace Sys2Proof.Machine

/-- The length policy `CTRL.LENMODE` selects (10_state.md R28). -/
def lenMode (s : State) : LenMode := if lenModeBit s.ctrl then .zscan else .explicit

/-- `DFM.BEGIN` (42_deformatter.md R154). -/
def dfmBegin (s : State) : Ran :=
  if lenOk s.nfr.toNat (lenMode s) (lenValid s.ctrl) s.rxlen.toNat then done s.startReceive
  else raise .truncationAmbiguous s.startReceive

/-- `DFM.UNPACK` (42_deformatter.md R155): every frame register and all of `DATA`; nothing is checked. -/
def dfmUnpack (p : Params) (s : State) : Ran :=
  if s.nfr.toNat ≤ s.fidx.toNat then raise .opRange s
  else
    withFmemSpan p (slotBase s.fidx.toNat) frameSize
      (done (s.setFields (unpack (readSlot p s s.fidx.toNat))))

/-- `DFM.CHECK` (42_deformatter.md R156): the checksum first, then the expected count; `ACC` is written in every case. -/
def dfmCheck (s : State) : Ran :=
  if s.headerChecksum ≠ s.csum then raise .checksumMismatch (s.setAcc s.headerChecksum)
  else if s.exp ≠ s.nfr then raise .sequenceIncomplete (s.setAcc s.headerChecksum)
  else done (s.setAcc s.headerChecksum)

/-- `DFM.DEC` (42_deformatter.md R157). -/
def dfmDec (p : Params) (s : State) : Ran :=
  if keyValid s then done (s.setData (p.dec s.key s.data)) else raise .noKey s

/-- How many bytes `DFM.STORE` stores, or the error it raises (42_deformatter.md R158): `len_ok` is tested again for the
last frame, in `EXPLICIT` mode. -/
def storeCount (s : State) : Except Result Nat :=
  if s.nfr.toNat ≤ s.fidx.toNat then .error .opRange
  else if s.fidx.toNat < s.nfr.toNat - 1 then .ok cap
  else
    match lenMode s with
    | .zscan => .ok (zscan s.data)
    | .explicit =>
      if lenOk s.nfr.toNat .explicit (lenValid s.ctrl) s.rxlen.toNat then
        .ok (s.rxlen.toNat - cap * (s.nfr.toNat - 1))
      else .error .truncationAmbiguous

/-- `DFM.STORE` (42_deformatter.md R158): the real bytes go to payload offset `CAP*FIDX`. -/
def dfmStore (p : Params) (s : State) : Ran :=
  match storeCount s with
  | .error e => raise e s
  | .ok n =>
    withPmemSpan p (chunkBase s.fidx.toNat) n
      (done (s.advanceStored (s.pmem.writeBytes (chunkBase s.fidx.toNat) (s.data.toList.take n))
        (BitVec.ofNat 32 (chunkBase s.fidx.toNat + n))))

/-- One turn of the loop of `DEFRAG`: the four micro-commands of a frame (42_deformatter.md R159). -/
def defragFrame (p : Params) (s : State) : Ran :=
  (dfmUnpack p s).andThen fun s =>
    (dfmCheck s).andThen fun s =>
      (dfmDec p s).andThen fun s => dfmStore p s

/-- The loop of `DEFRAG`, at most `n` turns (42_deformatter.md R159): every turn that raises nothing adds 1 to `FIDX`,
so `NFR - FIDX` turns are all there can be (70_reset_and_hazards.md R232, log 9). -/
def defragLoop (p : Params) : Nat → State → Ran
  | 0, s => done s
  | n + 1, s =>
    if s.fidx.toNat < s.nfr.toNat then (defragFrame p s).andThen (defragLoop p n) else done s

/-- `DEFRAG` (42_deformatter.md R159). -/
def defrag (p : Params) (s : State) : Ran :=
  (dfmBegin s).andThen fun s => defragLoop p (s.nfr.toNat - s.fidx.toNat) s

/-- `DFM.BEGIN` with its write-back. -/
def execDfmBegin (s : State) : Host.Outcome State Fault Refusal := finish (dfmBegin s)

/-- `DFM.UNPACK` with its write-back. -/
def execDfmUnpack (s : State) : Host.Outcome State Fault Refusal := finish (dfmUnpack Config.params s)

/-- `DFM.CHECK` with its write-back. -/
def execDfmCheck (s : State) : Host.Outcome State Fault Refusal := finish (dfmCheck s)

/-- `DFM.DEC` with its write-back. -/
def execDfmDec (s : State) : Host.Outcome State Fault Refusal := finish (dfmDec Config.params s)

/-- `DFM.STORE` with its write-back. -/
def execDfmStore (s : State) : Host.Outcome State Fault Refusal := finish (dfmStore Config.params s)

/-- `DEFRAG` as a whole has one result and one write-back (42_deformatter.md R159). -/
def execDefrag (s : State) : Host.Outcome State Fault Refusal := finish (defrag Config.params s)

end Sys2Proof.Machine
end

