-- ==== Sys2Proof/Machine/Formatter.lean ====
section
/-! DEFINITION. The transmit path (41_formatter.md): the six micro-commands and `FRAG`. A body (`fmtHdr`, ...) is the
pseudocode of its rule, without the write-back, so that `FRAG` can execute it; `exec…` adds the write-back. -/

namespace Sys2Proof.Machine

/-- `FMT.BEGIN` (41_formatter.md R123): `c > MAXF` clears `TLEN` and `COUNT` and raises. -/
def fmtBegin (s : State) : Ran :=
  if s.maxf.toNat < frameCount s.len.toNat then
    raise .capacityExceeded (s.startTransmit 0 0)
  else
    done (s.startTransmit s.len (BitVec.ofNat 16 (frameCount s.len.toNat)))

/-- `FMT.HDR` (41_formatter.md R124): the flags, the opcode from `OPCFG`, `COUNT - FIDX` and `COUNT`. -/
def fmtHdr (p : Params) (s : State) : Ran :=
  if s.count.toNat ≤ s.fidx.toNat then raise .opRange s
  else done (s.setHeader p.startFlag s.opcfg (s.count - s.fidx) s.count p.endFlag)

/-- The data field `FMT.LOAD` writes: the real bytes of chunk `FIDX`, then zero bytes (41_formatter.md R125). -/
def loadedBlock (p : Params) (s : State) : Block :=
  Vector.ofFn fun j : Fin 22 =>
    if j.val < chunkLen s.tlen.toNat s.fidx.toNat then pmemByte p s (chunkBase s.fidx.toNat + j.val) else 0

/-- `FMT.LOAD` (41_formatter.md R125). -/
def fmtLoad (p : Params) (s : State) : Ran :=
  if s.count.toNat ≤ s.fidx.toNat then raise .opRange s
  else
    withPmemSpan p (chunkBase s.fidx.toNat) (chunkLen s.tlen.toNat s.fidx.toNat)
      (done (s.setData (loadedBlock p s)))

/-- `FMT.ENC` (41_formatter.md R126): the whole data field, padding included, is one cipher block. -/
def fmtEnc (p : Params) (s : State) : Ran :=
  if keyValid s then done (s.setData (p.enc s.key s.data)) else raise .noKey s

/-- `FMT.CSUM` (41_formatter.md R127). -/
def fmtCsum (s : State) : Ran := done (s.setChecksum s.headerChecksum)

/-- `FMT.PACK` (41_formatter.md R128): packs the registers as they are into slot `FIDX`. -/
def fmtPack (p : Params) (s : State) : Ran :=
  if s.count.toNat ≤ s.fidx.toNat then raise .opRange s
  else
    withFmemSpan p (slotBase s.fidx.toNat) frameSize
      (done (s.advancePacked (s.fmem.writeBytes (slotBase s.fidx.toNat) (pack s.fields).toList)))

/-- One turn of the loop of `FRAG`: the five micro-commands of a frame (41_formatter.md R129). -/
def fragFrame (p : Params) (s : State) : Ran :=
  (fmtHdr p s).andThen fun s =>
    (fmtLoad p s).andThen fun s =>
      (fmtEnc p s).andThen fun s =>
        (fmtCsum s).andThen fun s => fmtPack p s

/-- The loop of `FRAG`, at most `n` turns (41_formatter.md R129): every turn that raises nothing adds 1 to `FIDX`, so
`COUNT - FIDX` turns are all there can be (70_reset_and_hazards.md R232, log 9). -/
def fragLoop (p : Params) : Nat → State → Ran
  | 0, s => done s
  | n + 1, s =>
    if s.fidx.toNat < s.count.toNat then (fragFrame p s).andThen (fragLoop p n) else done s

/-- `FRAG` (41_formatter.md R129). -/
def frag (p : Params) (s : State) : Ran :=
  (fmtBegin s).andThen fun s => fragLoop p (s.count.toNat - s.fidx.toNat) s

/-- `FMT.BEGIN` with its write-back. -/
def execFmtBegin (s : State) : Host.Outcome State Fault Refusal := finish (fmtBegin s)

/-- `FMT.HDR` with its write-back. -/
def execFmtHdr (s : State) : Host.Outcome State Fault Refusal := finish (fmtHdr Config.params s)

/-- `FMT.LOAD` with its write-back. -/
def execFmtLoad (s : State) : Host.Outcome State Fault Refusal := finish (fmtLoad Config.params s)

/-- `FMT.ENC` with its write-back. -/
def execFmtEnc (s : State) : Host.Outcome State Fault Refusal := finish (fmtEnc Config.params s)

/-- `FMT.CSUM` with its write-back. -/
def execFmtCsum (s : State) : Host.Outcome State Fault Refusal := finish (fmtCsum s)

/-- `FMT.PACK` with its write-back. -/
def execFmtPack (s : State) : Host.Outcome State Fault Refusal := finish (fmtPack Config.params s)

/-- `FRAG` as a whole has one result and one write-back (41_formatter.md R129). -/
def execFrag (s : State) : Host.Outcome State Fault Refusal := finish (frag Config.params s)

end Sys2Proof.Machine
end

