-- ==== Sys2Proof/Machine/System.lean ====
section
/-! DEFINITION. The system commands (43_system.md) and what an illegal command word does (30_encoding.md R84). -/

namespace Sys2Proof.Machine

/-- `NOP`: nothing (43_system.md R180). -/
def nop (s : State) : Ran := done s

/-- `CLRERR`: `STATUS.STKERR <- 0` (43_system.md R181). -/
def clrerr (s : State) : Ran := done s.clearSticky

/-- `NOP` with its write-back, which overwrites the previous `ERR` with 0 (43_system.md R180, 60_exceptions.md R193). -/
def execNop (s : State) : Host.Outcome State Fault Refusal := finish (nop s)

/-- `CLRERR` with its write-back (43_system.md R181, 60_exceptions.md R193). -/
def execClrerr (s : State) : Host.Outcome State Fault Refusal := finish (clrerr s)

/-- A word that matches no row: result `IllegalCommand`, no other change than the write-back (30_encoding.md R84). -/
def execIllegal (s : State) : Host.Outcome State Fault Refusal := finish (raise .illegalCommand s)

end Sys2Proof.Machine
end

