-- ==== Sys2Proof/Machine/Dispatch.lean ====
section
/-! DEFINITION. One arm per command: the command's meaning, its write-back included. -/

namespace Sys2Proof.Machine

def exec (i : Instr) (s : State) : Host.Outcome State Fault Refusal :=
  match i with
  | .nop => Sys2Proof.Machine.execNop s
  | .clrerr => Sys2Proof.Machine.execClrerr s
  | .crcInit => Sys2Proof.Machine.execCrcInit s
  | .crcUpd imm8 => Sys2Proof.Machine.execCrcUpd imm8 s
  | .fmtBegin => Sys2Proof.Machine.execFmtBegin s
  | .fmtHdr => Sys2Proof.Machine.execFmtHdr s
  | .fmtLoad => Sys2Proof.Machine.execFmtLoad s
  | .fmtEnc => Sys2Proof.Machine.execFmtEnc s
  | .fmtCsum => Sys2Proof.Machine.execFmtCsum s
  | .fmtPack => Sys2Proof.Machine.execFmtPack s
  | .frag => Sys2Proof.Machine.execFrag s
  | .dfmBegin => Sys2Proof.Machine.execDfmBegin s
  | .dfmUnpack => Sys2Proof.Machine.execDfmUnpack s
  | .dfmCheck => Sys2Proof.Machine.execDfmCheck s
  | .dfmDec => Sys2Proof.Machine.execDfmDec s
  | .dfmStore => Sys2Proof.Machine.execDfmStore s
  | .defrag => Sys2Proof.Machine.execDefrag s

end Sys2Proof.Machine
end

