-- ==== Sys2Proof/Machine/HostPort.lean ====
section
/-! DEFINITION. The host interface (10_state.md R38, R39, 20_memory.md R69, 70_reset_and_hazards.md R220): what one host action
does. -/

namespace Sys2Proof.Machine

/-- The registers of 10_state.md R38, by name. -/
inductive Reg where
  | cmd | status | ctrl | len | tlen | count | fidx | maxf | nfr | rxlen | outlen | opcfg | acc
  | sflag | opc | pkt | exp | csum | eflag
  /-- `DATA[j]`. -/
  | data (j : Fin 22)
  /-- `KEY[j]`. -/
  | key (j : Fin 16)
  /-- Every number the table does not name: reads 0, writes are ignored. -/
  | reserved
  deriving DecidableEq, Repr

/-- The register of a number (10_state.md R38). -/
def regOfNumber (n : Byte) : Reg :=
  if n = 0x00 then .cmd
  else if n = 0x01 then .status
  else if n = 0x02 then .ctrl
  else if n = 0x03 then .len
  else if n = 0x04 then .tlen
  else if n = 0x05 then .count
  else if n = 0x06 then .fidx
  else if n = 0x07 then .maxf
  else if n = 0x08 then .nfr
  else if n = 0x09 then .rxlen
  else if n = 0x0A then .outlen
  else if n = 0x0B then .opcfg
  else if n = 0x0C then .acc
  else if n = 0x10 then .sflag
  else if n = 0x11 then .opc
  else if n = 0x12 then .pkt
  else if n = 0x13 then .exp
  else if n = 0x14 then .csum
  else if n = 0x15 then .eflag
  else if h : 0x20 ≤ n.toNat ∧ n.toNat ≤ 0x35 then .data ⟨n.toNat - 0x20, by omega⟩
  else if h : 0x40 ≤ n.toNat ∧ n.toNat ≤ 0x4F then .key ⟨n.toNat - 0x40, by omega⟩
  else .reserved

/-- `RegRead`: the value of a register (10_state.md R38, R39). `CMD`, `KEY` and the reserved numbers read 0. -/
def regValue (s : State) : Reg → Nat
  | .cmd => 0
  | .status => (statusWord s).toNat
  | .ctrl => s.ctrl.toNat
  | .len => s.len.toNat
  | .tlen => s.tlen.toNat
  | .count => s.count.toNat
  | .fidx => s.fidx.toNat
  | .maxf => s.maxf.toNat
  | .nfr => s.nfr.toNat
  | .rxlen => s.rxlen.toNat
  | .outlen => s.outlen.toNat
  | .opcfg => s.opcfg.toNat
  | .acc => s.acc.toNat
  | .sflag => s.sflag.toNat
  | .opc => s.opc.toNat
  | .pkt => s.pkt.toNat
  | .exp => s.exp.toNat
  | .csum => s.csum.toNat
  | .eflag => s.eflag.toNat
  | .data j => (s.data[j.val]).toNat
  | .key _ => 0
  | .reserved => 0

/-- The WARL replacement of `MAXF` and `NFR`: a 16-bit `v` becomes `min(v, NSLOT)` (10_state.md R33, R34). -/
def clampSlots (p : Params) (v : Half) : Half := BitVec.ofNat 16 (min v.toNat p.nslot)

/-- `RegWrite` to a register other than `CMD` (10_state.md R39): `v` is reduced modulo the width; a read-only or reserved
number ignores it. -/
def regStore (p : Params) (s : State) (r : Reg) (v : Nat) : State :=
  match r with
  | .ctrl => { s with ctrl := BitVec.ofNat 8 v &&& ctrlMask }
  | .len => { s with len := BitVec.ofNat 32 v }
  | .maxf => { s with maxf := clampSlots p (BitVec.ofNat 16 v) }
  | .nfr => { s with nfr := clampSlots p (BitVec.ofNat 16 v) }
  | .rxlen => { s with rxlen := BitVec.ofNat 32 v }
  | .opcfg => { s with opcfg := BitVec.ofNat 16 v }
  | .sflag => { s with sflag := BitVec.ofNat 8 v }
  | .opc => { s with opc := BitVec.ofNat 16 v }
  | .pkt => { s with pkt := BitVec.ofNat 16 v }
  | .exp => { s with exp := BitVec.ofNat 16 v }
  | .csum => { s with csum := BitVec.ofNat 16 v }
  | .eflag => { s with eflag := BitVec.ofNat 8 v }
  | .data j => { s with data := s.data.set j.val (BitVec.ofNat 8 v) }
  | .key j => { s with key := s.key.set j.val (BitVec.ofNat 8 v), keyw := s.keyw.set j.val true }
  | .cmd | .status | .tlen | .count | .fidx | .outlen | .acc | .reserved => s

/-- A host write of `w` to `CMD` (10_state.md R26): the command runs to its end, an illegal word has the result
`IllegalCommand` (30_encoding.md R84). -/
def issue (w : Half) (s : State) : Host.Outcome State Fault Refusal :=
  match decode w with
  | .ok i => exec i s
  | .error _ => execIllegal s

/-- `RegWrite(n, v)` (10_state.md R39). -/
def regWrite (p : Params) (n : Byte) (v : Nat) (s : State) : Host.Outcome State Fault Refusal :=
  if regOfNumber n = .cmd then issue (BitVec.ofNat 16 v) s
  else .next (regStore p s (regOfNumber n) v)

/-- `Reset` (70_reset_and_hazards.md R220): every register takes its reset value, both memories hold unspecified contents
again (a new epoch, U1), and the host's own list and what it has read stay. -/
def resetBlock (p : Params) (s : State) : State :=
  { State.resetOf p with epoch := s.epoch + 1, todo := s.todo, seen := s.seen }

/-- What one host action does (00_scope.md R6). A byte access beyond a memory has no step (20_memory.md R69, U2). -/
def hostStep (p : Params) (a : HostAction) (s : State) : Host.Outcome State Fault Refusal :=
  match a with
  | .regRead n => .next (s.returned (regValue s (regOfNumber n)))
  | .regWrite n v => regWrite p n v s
  | .pmRead a =>
    if a < p.pmemSize then .next (s.returned (pmemByte p s a).toNat) else .refused (.hostPmemRange a)
  | .pmWrite a b =>
    if a < p.pmemSize then .next { s with pmem := s.pmem.write a b } else .refused (.hostPmemRange a)
  | .fmRead a =>
    if a < p.fmemSize then .next (s.returned (fmemByte p s a).toNat) else .refused (.hostFmemRange a)
  | .fmWrite a b =>
    if a < p.fmemSize then .next { s with fmem := s.fmem.write a b } else .refused (.hostFmemRange a)
  | .reset => .next (resetBlock p s)

end Sys2Proof.Machine
end

