-- ==== Sys2Proof/Machine/Step.lean ====
section
/-! DEFINITION. One step of the machine: the next host action of the run (00_scope.md R6, 70_reset_and_hazards.md R232). -/

namespace Sys2Proof.Machine

/-- One step: the oldest host action still to be applied. With none left nothing happens, since the block has no
activity of its own (00_scope.md R7): the end of a run is the state after the last action (70_reset_and_hazards.md R232,
log 1). -/
def step (s : State) : Host.Outcome State Fault Refusal :=
  match s.todo with
  | [] => .next s
  | a :: rest => hostStep Config.params a (s.setTodo rest)

/-- `s` with the command word `w` as the host's next action: commands are not fetched from a memory, the word is the
value the host writes to `CMD` (20_memory.md R73). -/
def State.withFetchWord (s : State) (nbits w : Nat) : State :=
  s.setTodo (.command (BitVec.ofNat 16 (w % 2 ^ nbits)) :: s.todo)

end Sys2Proof.Machine
end

