-- ==== Sys2Proof/Machine/Contract.lean ====
section
/-! DEFINITION. The two contracts as functions: `fragment` (41_formatter.md R120), which `FRAG` computes into `FMEM`, and
`defragment` (42_deformatter.md R150), which `DEFRAG` computes from `FMEM` into `PMEM`. No command calls them: they are what
the commands are held against. -/

namespace Sys2Proof.Machine

/-- `plain`: the `n` real bytes of chunk `i`, then `CAP - n` zero bytes (41_formatter.md R120). -/
def plainBlock (payload : List Byte) (i : Nat) : Block :=
  Vector.ofFn fun j : Fin 22 => if j.val < chunkLen payload.length i then payload.getD (cap * i + j.val) 0 else 0

/-- `frame[i]` of a sequence of `c` frames (41_formatter.md R120). -/
def frameOf (p : Params) (payload : List Byte) (key : Key) (opcode : Half) (c i : Nat) : Frame :=
  pack
    { sflag := p.startFlag
      opc := opcode
      pkt := BitVec.ofNat 16 (c - i)
      exp := BitVec.ofNat 16 c
      data := p.enc key (plainBlock payload i)
      csum := hdrCsum p.startFlag opcode (BitVec.ofNat 16 (c - i)) (BitVec.ofNat 16 c)
      eflag := p.endFlag }

/-- `fragment(payload, key, opcode, maxf)` (41_formatter.md R120). -/
def fragment (p : Params) (payload : List Byte) (key : Key) (opcode : Half) (maxf : Nat) :
    Except Result (List Frame) :=
  if maxf < frameCount payload.length then .error .capacityExceeded
  else .ok ((List.range (frameCount payload.length)).map
    (frameOf p payload key opcode (frameCount payload.length)))

/-- The loop of `defragment` from frame `i` of `n`, in the order given (42_deformatter.md R150). -/
def defragmentFrom (p : Params) (key : Key) (mode : LenMode) (rxlen n : Nat) :
    Nat → List Frame → Except Result (List Byte)
  | _, [] => .ok []
  | i, f :: rest =>
    if hdrCsum (unpack f).sflag (unpack f).opc (unpack f).pkt (unpack f).exp ≠ (unpack f).csum then
      .error .checksumMismatch
    else if (unpack f).exp.toNat ≠ n then .error .sequenceIncomplete
    else
      match defragmentFrom p key mode rxlen n (i + 1) rest with
      | .error e => .error e
      | .ok out =>
        .ok ((p.dec key (unpack f).data).toList.take
          (realLen i n mode rxlen (p.dec key (unpack f).data)) ++ out)

/-- `defragment(frames, key, mode, lenv, rxlen)` (42_deformatter.md R150). -/
def defragment (p : Params) (frames : List Frame) (key : Key) (mode : LenMode) (lenv : Bool) (rxlen : Nat) :
    Except Result (List Byte) :=
  if lenOk frames.length mode lenv rxlen then defragmentFrom p key mode rxlen frames.length 0 frames
  else .error .truncationAmbiguous

end Sys2Proof.Machine
end

