-- ==== Sys2Proof/WellFormed.lean ====
section
/-! DEFINITION. Which terms stand for something the block has. A command carries at most one byte, so its type says
all there is to check (30_encoding.md R81, R82); a host byte access has an address, which must lie in the memory
(20_memory.md R69, 93_implementation_defined.md U2). -/

namespace Sys2Proof

/-- Every command of the type is well-formed: the one operand, `imm8`, is a byte by its type, and every byte is
legal (30_encoding.md R84: `CRC.UPD` accepts 256 words). -/
def Instr.wellFormed : Instr → Bool
  | .nop | .clrerr | .crcInit | .crcUpd _ => true
  | .fmtBegin | .fmtHdr | .fmtLoad | .fmtEnc | .fmtCsum | .fmtPack | .frag => true
  | .dfmBegin | .dfmUnpack | .dfmCheck | .dfmDec | .dfmStore | .defrag => true

/-- A host action is well-formed when the byte it names exists (U2). Register accesses never fail, whatever the
number and the value (10_state.md R39). -/
def HostAction.wellFormed (p : Params) : HostAction → Bool
  | .regRead _ | .regWrite _ _ | .reset => true
  | .pmRead a | .pmWrite a _ => decide (a < p.pmemSize)
  | .fmRead a | .fmWrite a _ => decide (a < p.fmemSize)

end Sys2Proof
end

