-- ==== Sys2Proof/Safety.lean ====
section
/-! DEFINITION. What a safe state and a safe run are, in the terms the statements use. -/

namespace Sys2Proof.Safety

open Sys2Proof.Machine

/-- The invariants of every reachable state (10_state.md R43), and the canonical form and range of the two memories
(10_state.md R40, R41). `STATUS[7] = 0` is not listed: bit 7 is not stored, `statusWord` reads it as 0. -/
structure Inv (p : Params) (s : State) : Prop where
  /-- `MAXF <= NSLOT`. -/
  maxf_le : s.maxf.toNat ≤ p.nslot
  /-- `NFR <= NSLOT`. -/
  nfr_le : s.nfr.toNat ≤ p.nslot
  /-- `COUNT = ceil(TLEN / CAP)`. -/
  count_eq : s.count.toNat = frameCount s.tlen.toNat
  /-- `COUNT <= NSLOT`. -/
  count_le : s.count.toNat ≤ p.nslot
  /-- `TLEN <= PMEM_SIZE`. -/
  tlen_le : s.tlen.toNat ≤ p.pmemSize
  /-- `FIDX <= NSLOT`. -/
  fidx_le : s.fidx.toNat ≤ p.nslot
  /-- `OUTLEN <= PMEM_SIZE`. -/
  outlen_le : s.outlen.toNat ≤ p.pmemSize
  /-- `CTRL[7:2] = 0`. -/
  ctrl_reserved : s.ctrl &&& ~~~ctrlMask = 0
  /-- `PMEM` is in its canonical form. -/
  pmem_wf : s.pmem.wf
  /-- `FMEM` is in its canonical form. -/
  fmem_wf : s.fmem.wf
  /-- Every written byte of `PMEM` exists. -/
  pmem_range : ∀ c ∈ s.pmem, c.1 < p.pmemSize
  /-- Every written byte of `FMEM` exists. -/
  fmem_range : ∀ c ∈ s.fmem, c.1 < p.fmemSize

/-- "No fault recorded": `STATUS.STKERR = 0` (60_exceptions.md R194). -/
def NoErrorRecorded (s : State) : Prop := s.stkerr = 0

/-- Every action of the run names something the block has (20_memory.md R69, U2). -/
def ActionsExist (p : Params) (todo : List HostAction) : Prop := ∀ a ∈ todo, a.wellFormed p = true

/-- What an error records in `STATUS`: `ERR` takes the code, `STKERR` too when it holds none yet (60_exceptions.md R193). -/
def errorRecorded (code : BitVec 3) (s : State) : State :=
  { s with err := code, stkerr := if s.stkerr = 0 then code else s.stkerr }

/-- The payload a fragmentation takes: `PMEM[0 .. LEN-1]` (41_formatter.md R129). -/
def payloadOf (p : Params) (s : State) : List Byte := (List.range s.len.toNat).map (pmemByte p s)

/-- The frames a defragmentation takes: `FMEM` slots 0 to `NFR - 1` (42_deformatter.md R159). -/
def framesOf (p : Params) (s : State) : List Frame := (List.range s.nfr.toNat).map (readSlot p s)

/-- Frame `i` passes `DFM.CHECK` in a sequence of `n` frames (42_deformatter.md R156). -/
def framePasses (p : Params) (s : State) (i : Nat) : Prop :=
  hdrCsum (unpack (readSlot p s i)).sflag (unpack (readSlot p s i)).opc (unpack (readSlot p s i)).pkt
      (unpack (readSlot p s i)).exp = (unpack (readSlot p s i)).csum ∧
    (unpack (readSlot p s i)).exp = s.nfr

/-- The receiving block is set up for the frames of a transmission `t` of a payload of length `len` under `key`
(70_reset_and_hazards.md R223, 42_deformatter.md R161); which frames it was given is said apart. -/
structure ReceiverReady (p : Params) (len : Long) (key : Key) (t u : State) : Prop where
  /-- The receiver is in a reachable kind of state. -/
  inv : Inv p u
  /-- All sixteen key bytes have been written. -/
  keyed : keyValid u = true
  /-- The key is the transmitter's. -/
  sameKey : u.key = key
  /-- `NFR = COUNT`. -/
  frames : u.nfr = t.count
  /-- `CTRL.LENMODE = EXPLICIT`. -/
  explicit : lenMode u = .explicit
  /-- `CTRL.LENV = 1`. -/
  declared : lenValid u.ctrl = true
  /-- `RXLEN = LEN`. -/
  sideBand : u.rxlen = len

end Sys2Proof.Safety
end

