-- ==== Sys2Proof/Certificates/Slice0/Obligations.lean ====
section
/-! DEFINITION. The statements, from the numbered rules of spec/. `P` below is `Config.params`, whose values nothing can be
proved of; so every statement holds whatever the open parameters are. A statement that gives the next state as a record
update says at once what the command changes and that it changes nothing else. -/

open Sys2Proof Sys2Proof.Machine Sys2Proof.Safety

/-! ### Encoding and the step -/

/-- 30_encoding.md R83, R86: the decoder reads from a word exactly the command whose word it is, so no bit of an encoding is
dropped and no two commands share a word. -/
def Obligations.DecodeReadsExactlyTheEncodedCommand : Prop :=
  ∀ (w : Half) (i : Instr), i.wellFormed = true → (decode w = .ok i ↔ w = encode i)

/-- 30_encoding.md R83: a word is a command when its masked bits equal the row's match; one row at most claims a word. -/
def Obligations.DecodeFollowsTheMatchMaskTable : Prop :=
  (∀ (w : Half) (i : Instr), decode w = .ok i → w &&& i.rowMask = i.rowMatch) ∧
  (∀ (w : Half) (i : Instr), w &&& i.rowMask = i.rowMatch → ∃ j, decode w = .ok j ∧ j.rowMatch = i.rowMatch) ∧
  (∀ (w : Half) (i j : Instr), w &&& i.rowMask = i.rowMatch → w &&& j.rowMask = j.rowMatch →
    i.rowMatch = j.rowMatch)

/-- 30_encoding.md R84: which words are illegal (a code outside the table, or a format Z code with a non-zero low byte), that
272 of the 65536 are legal, and that an illegal word changes nothing but the result write-back with code 5. -/
def Obligations.IllegalWordsAreExactlyR84AndOnlyRecordCode5 : Prop :=
  (∀ w : Half, (∃ e, decode w = .error e) ↔
    (w.toNat / 256 ∉ [0x00, 0x01, 0x10, 0x11, 0x20, 0x21, 0x22, 0x23, 0x24, 0x25, 0x2F, 0x30, 0x31, 0x32, 0x33, 0x34, 0x3F] ∨
      (w.toNat / 256 ≠ 0x11 ∧ w.toNat % 256 ≠ 0))) ∧
  ((List.range 65536).countP fun n => (decode (BitVec.ofNat 16 n)).toOption.isSome) = 272 ∧
  (∀ (s : State) (w : Half) (rest : List HostAction) (e : IllegalWord), s.todo = HostAction.command w :: rest →
    decode w = .error e → step s = .next (errorRecorded 5 { s with todo := rest }))

/-- A few words of opcode_table.json, written out, decode to the command of their row (30_encoding.md R83). -/
def Obligations.TableWordsDecodeToTheirRows : Prop :=
  decodeTableWord 16 0x0000 = some .nop ∧ decodeTableWord 16 0x1161 = some (.crcUpd 0x61) ∧
  decodeTableWord 16 0x2500 = some .fmtPack ∧ decodeTableWord 16 0x2F00 = some .frag ∧
  decodeTableWord 16 0x3400 = some .dfmStore ∧ decodeTableWord 16 0x3F00 = some .defrag ∧
  decodeTableWord 16 0x2001 = none ∧ decodeTableWord 16 0x3500 = none

/-- A step runs the decoded command: where the host's next action writes `w` to `CMD` and `w` decodes to `i`, the step is `exec`
of `i` on the state with that action taken off the list (10_state.md R26). The list of actions, and that a step with no action
left changes nothing ("The block has no activity of its own", 00_scope.md R7), are the model's (log 1). -/
def Obligations.StepRunsTheDecodedCommand : Prop :=
  (∀ (s : State) (w : Half) (i : Instr) (rest : List HostAction), s.todo = HostAction.command w :: rest →
    decode w = .ok i → step s = exec i { s with todo := rest }) ∧
  (∀ (s : State) (i : Instr), step (s.withFetchWord 16 (encode i).toNat) = exec i s) ∧
  (∀ s : State, s.todo = [] → step s = .next s)

/-! ### System commands -/

/-- 43_system.md R180: `NOP` overwrites `ERR` with 0 and changes nothing else. -/
def Obligations.NopOnlyClearsErr : Prop :=
  encode .nop = 0x0000 ∧ ∀ s : State, exec .nop s = .next { s with err := 0 }

/-- 43_system.md R181: `CLRERR` clears `STKERR` and `ERR` and changes nothing else. -/
def Obligations.ClrerrOnlyClearsStkerrAndErr : Prop :=
  encode .clrerr = 0x0100 ∧ ∀ s : State, exec .clrerr s = .next { s with stkerr := 0, err := 0 }

/-! ### The checksum engine -/

/-- 40_crc.md R103: `CRC.INIT` sets `ACC` to `0xFFFF` and changes nothing else but `ERR`. -/
def Obligations.CrcInitSetsAccumulator : Prop :=
  encode .crcInit = 0x1000 ∧ ∀ s : State, exec .crcInit s = .next { s with acc := 0xFFFF, err := 0 }

/-- 40_crc.md R100, R104: `CRC.UPD` folds its byte into `ACC` and changes nothing else but `ERR`; the fold is written out here
as R100 has it, in arithmetic: the byte XORed into the top 8 bits, then 8 times `2 * a`, reduced modulo `2^16` and XORed
with `0x1021` when the high bit was set. -/
def Obligations.CrcUpdFoldsOneByte : Prop :=
  ∀ (s : State) (b : Byte),
    exec (.crcUpd b) s = .next { s with
      acc := BitVec.ofNat 16 ((List.range 8).foldl
        (fun a _ => if 32768 ≤ a then (2 * a % 65536) ^^^ 0x1021 else 2 * a) (s.acc.toNat ^^^ (256 * b.toNat)))
      err := 0 }

/-- 40_crc.md R106: shifting is doubling modulo `2^16`; the byte's XOR leaves bits 7 to 0; `crc_step` is a bijection on the
accumulator for a fixed byte, and the byte may be folded into the accumulator first. -/
def Obligations.CrcStepIsABijectionThatFoldsTheByte : Prop :=
  (∀ a : Half, (a <<< 1).toNat = 2 * a.toNat % 65536) ∧
  (∀ (a : Half) (b : Byte), (a ^^^ (b.zeroExtend 16 <<< 8)).extractLsb' 0 8 = a.extractLsb' 0 8) ∧
  (∀ b : Byte, Function.Bijective fun a : Half => crcStep a b) ∧
  (∀ (a : Half) (b : Byte), crcStep a b = crcStep (a ^^^ (b.zeroExtend 16 <<< 8)) 0)

/-- 40_crc.md R107: for sequences of one length, the XOR of two checksums depends only on the XOR of the sequences. -/
def Obligations.CrcDifferenceDependsOnlyOnTheXor : Prop :=
  ∀ m m' k k' : List Byte, m.length = m'.length → k.length = k'.length →
    List.zipWith (· ^^^ ·) m m' = List.zipWith (· ^^^ ·) k k' → crc16 m ^^^ crc16 m' = crc16 k ^^^ crc16 k'

/-- 40_crc.md R107: a change confined to one byte always changes the checksum, at any place in a sequence of any length. -/
def Obligations.OneChangedByteChangesTheChecksum : Prop :=
  ∀ (pre post : List Byte) (x y : Byte), x ≠ y → crc16 (pre ++ x :: post) ≠ crc16 (pre ++ y :: post)

/-- 40_crc.md R107: every one-bit and every two-bit change of a header changes its checksum. -/
def Obligations.OneOrTwoFlippedHeaderBitsChangeTheChecksum : Prop :=
  ∀ (m : List Byte) (i j : Nat), m.length = 7 → i < 56 → j < 56 →
    crc16 (m.modify (i / 8) (· ^^^ (1#8 <<< (i % 8)))) ≠ crc16 m ∧
    (i ≠ j → crc16 ((m.modify (i / 8) (· ^^^ (1#8 <<< (i % 8)))).modify (j / 8) (· ^^^ (1#8 <<< (j % 8)))) ≠ crc16 m)

/-- The corner values of 40_crc.md R102 and the example of R108. -/
def Obligations.CrcCornerValues : Prop :=
  crc16 [] = 0xFFFF ∧ crc16 [0x00] = 0xE1F0 ∧ crc16 [0xFF] = 0xFF00 ∧ crc16 [0x00, 0x00] = 0x1D0F ∧
  crc16 [0x31, 0x32, 0x33, 0x34, 0x35, 0x36, 0x37, 0x38, 0x39] = 0x29B1 ∧ crcStep 0x0000 0x00 = 0x0000 ∧
  hdrCsum 0x7E 0x1234 1 1 = 0x741A

/-- 40_crc.md R105: `CRC.INIT` and then `CRC.UPD` of each byte in order leaves `crc16` of the bytes in `ACC`, whatever `ACC`
held before. -/
def Obligations.StreamingLeavesCrc16 : Prop :=
  ∀ (s : State) (bytes : List Byte) (rest : List HostAction),
    s.todo = HostAction.command (encode .crcInit) :: bytes.map (fun b => HostAction.command (encode (.crcUpd b))) ++ rest →
    Host.Core.run core (bytes.length + 1) s = .next { s with acc := crc16 bytes, err := 0, todo := rest }

/-- A corner case 40_crc.md R104 states of `CRC.UPD` with the byte 0: it "still changes `ACC` unless `ACC = 0x0000`". The
pseudocode of R100 has another fixed point, so this is expected to fail (log 12). -/
def Obligations.ZeroByteChangesEveryNonzeroAccumulator : Prop :=
  ∀ a : Half, a ≠ 0 → crcStep a 0x00 ≠ a

/-! ### The transmit path -/

/-- 41_formatter.md R121: `frame_count` is `(L + CAP - 1) div CAP` without wrap, the least number of data fields that holds the
length, and at most 195225787 for a 32-bit length; a multiple of `CAP` has no frame too many; a fragmentation of zero bytes
produces zero frames and is not an error. -/
def Obligations.FrameCountIsTheLeastThatHolds : Prop :=
  frameCount 0 = 0 ∧ (∀ n, frameCount (22 * n) = n) ∧
  (∀ len, frameCount len = (len + 22 - 1) / 22 ∧ len ≤ 22 * frameCount len ∧ ∀ c, len ≤ 22 * c → frameCount len ≤ c) ∧
  (∀ len : Long, len.toNat + 22 - 1 < 2 ^ 33 ∧ frameCount len.toNat ≤ 195225787) ∧
  (∀ (key : Key) (opcode : Half) (maxf : Nat), fragment Config.params [] key opcode maxf = .ok [])

/-- 41_formatter.md R122: chunk `i` has `min(CAP, L - CAP*i)` real bytes: 1 to 22, 22 unless it is the last, what is left when it
is; and the chunks make up the payload. -/
def Obligations.ChunksMakeUpThePayload : Prop :=
  ∀ len : Nat,
    (∀ i, i < frameCount len → chunkLen len i = min 22 (len - 22 * i)) ∧
    (∀ i, i + 1 = frameCount len → chunkLen len i = len - 22 * i) ∧
    (∀ i, i < frameCount len → 1 ≤ chunkLen len i ∧ chunkLen len i ≤ 22) ∧
    (∀ i, i + 1 < frameCount len → chunkLen len i = 22) ∧
    ((List.range (frameCount len)).map (chunkLen len)).sum = len

/-- 41_formatter.md R123: `FMT.BEGIN` latches the length and the count, or clears both and records `CapacityExceeded`. -/
def Obligations.FmtBeginLatchesOrRefusesTheLength : Prop :=
  encode .fmtBegin = 0x2000 ∧ ∀ s : State, exec .fmtBegin s =
    if s.maxf.toNat < (s.len.toNat + 21) / 22 then
      .next (errorRecorded 1 { s with fidx := 0, tlen := 0, count := 0 })
    else
      .next { s with fidx := 0, tlen := s.len, count := BitVec.ofNat 16 ((s.len.toNat + 21) / 22), err := 0 }

/-- 41_formatter.md R124: `FMT.HDR` sets the five header registers of frame `FIDX`, or records `OpRange`. -/
def Obligations.FmtHdrSetsTheHeaderRegisters : Prop :=
  encode .fmtHdr = 0x2100 ∧ ∀ s : State, exec .fmtHdr s =
    if s.count.toNat ≤ s.fidx.toNat then .next (errorRecorded 7 s)
    else
      .next { s with
        sflag := Config.startFlag, opc := s.opcfg, eflag := Config.endFlag
        pkt := BitVec.ofNat 16 (s.count.toNat - s.fidx.toNat), exp := s.count, err := 0 }

/-- 41_formatter.md R125: `FMT.LOAD` leaves the real bytes of chunk `FIDX` and then zero bytes in `DATA`, and changes nothing
else but `ERR`. -/
def Obligations.FmtLoadCopiesTheChunkAndPads : Prop :=
  ∀ s : State, Inv Config.params s → s.fidx.toNat < s.count.toNat →
    ∃ t, exec .fmtLoad s = .next t ∧ t = { s with data := t.data, err := 0 } ∧
      ∀ j (_ : j < 22), t.data[j] =
        if j < min 22 (s.tlen.toNat - 22 * s.fidx.toNat) then pmemByte Config.params s (22 * s.fidx.toNat + j) else 0x00

/-- 41_formatter.md R126: with a key `FMT.ENC` replaces `DATA` by `Enc(KEY, DATA)`, without one it records `NoKey`; `FIDX` and
`COUNT` do not matter. -/
def Obligations.FmtEncEnciphersTheDataField : Prop :=
  encode .fmtEnc = 0x2300 ∧ ∀ s : State, exec .fmtEnc s =
    if ∀ j (_ : j < 16), s.keyw[j] = true then .next { s with data := Config.enc s.key s.data, err := 0 }
    else .next (errorRecorded 6 s)

/-- 41_formatter.md R127: `FMT.CSUM` leaves the CRC of the seven header bytes in `ACC` and in `CSUM`; the old `ACC`, `DATA` and
`EFLAG` have no influence. -/
def Obligations.FmtCsumChecksumsTheHeaderRegisters : Prop :=
  encode .fmtCsum = 0x2400 ∧ ∀ s : State,
    exec .fmtCsum s = .next { s with
      acc := crc16 [s.sflag, s.opc.extractLsb' 8 8, s.opc.extractLsb' 0 8, s.pkt.extractLsb' 8 8,
        s.pkt.extractLsb' 0 8, s.exp.extractLsb' 8 8, s.exp.extractLsb' 0 8]
      csum := crc16 [s.sflag, s.opc.extractLsb' 8 8, s.opc.extractLsb' 0 8, s.pkt.extractLsb' 8 8,
        s.pkt.extractLsb' 0 8, s.exp.extractLsb' 8 8, s.exp.extractLsb' 0 8]
      err := 0 }

/-- 41_formatter.md R128, 20_memory.md R62: `FMT.PACK` writes the 32 wire bytes, big-endian fields in the order of the layout, to
slot `FIDX`, adds 1 to `FIDX`, and changes no other byte and no other register but `ERR`. -/
def Obligations.FmtPackWritesOneSlot : Prop :=
  ∀ s : State, Inv Config.params s → s.fidx.toNat < s.count.toNat →
    ∃ t, exec .fmtPack s = .next t ∧ t = { s with fmem := t.fmem, fidx := s.fidx + 1, err := 0 } ∧
      t.fidx.toNat = s.fidx.toNat + 1 ∧
      (∀ o, o < 32 → fmemByte Config.params t (32 * s.fidx.toNat + o) =
        ([s.sflag, s.opc.extractLsb' 8 8, s.opc.extractLsb' 0 8, s.pkt.extractLsb' 8 8, s.pkt.extractLsb' 0 8,
          s.exp.extractLsb' 8 8, s.exp.extractLsb' 0 8] ++ s.data.toList ++
          [s.csum.extractLsb' 8 8, s.csum.extractLsb' 0 8, s.eflag]).getD o 0) ∧
      (∀ a, a < 32 * s.fidx.toNat ∨ 32 * s.fidx.toNat + 32 ≤ a →
        fmemByte Config.params t a = fmemByte Config.params s a)

/-- 41_formatter.md R124, R125, R128: with no frame `FIDX` in the transmit sequence, the three commands that need one record
`OpRange` and write nothing. -/
def Obligations.TransmitCommandsWithoutAFrameRecordOpRange : Prop :=
  ∀ s : State, s.count.toNat ≤ s.fidx.toNat →
    ∀ i, i = Instr.fmtHdr ∨ i = Instr.fmtLoad ∨ i = Instr.fmtPack → exec i s = .next (errorRecorded 7 s)

/-- 41_formatter.md R129: `FRAG` computes `fragment` of R120 into slots 0 to `COUNT - 1`; `FIDX = COUNT`; the other slots, `PMEM`
and every register outside the transmit path are unchanged; the frame registers and `ACC` hold the last frame. -/
def Obligations.FragComputesFragment : Prop :=
  ∀ s : State, Inv Config.params s → keyValid s = true → (s.len.toNat + 21) / 22 ≤ s.maxf.toNat →
    ∃ t frames, exec .frag s = .next t ∧
      fragment Config.params (payloadOf Config.params s) s.key s.opcfg s.maxf.toNat = .ok frames ∧
      t.count.toNat = frames.length ∧ t.fidx = t.count ∧ t.tlen = s.len ∧ t.err = 0 ∧
      (∀ i (_ : i < frames.length) o (_ : o < 32), fmemByte Config.params t (32 * i + o) = frames[i][o]) ∧
      (∀ a, 32 * frames.length ≤ a → fmemByte Config.params t a = fmemByte Config.params s a) ∧
      (∀ f, frames.getLast? = some f → t.fields = unpack f ∧ t.acc = t.csum) ∧
      (frames = [] → t.fields = s.fields ∧ t.acc = s.acc) ∧
      t = { s with
        sflag := t.sflag, opc := t.opc, pkt := t.pkt, exp := t.exp, csum := t.csum, eflag := t.eflag, data := t.data
        acc := t.acc, tlen := t.tlen, count := t.count, fidx := t.fidx, fmem := t.fmem, err := t.err }

/-- 41_formatter.md R129: how `FRAG` fails. A payload that does not fit leaves `COUNT = TLEN = FIDX = 0`; a missing key leaves
frame 0, unencrypted, in the frame registers; `FMEM` is untouched in both. With no frame to build no key is needed. -/
def Obligations.FragErrorsLeaveTheFramesUntouched : Prop :=
  ∀ s : State,
    (s.maxf.toNat < frameCount s.len.toNat →
      exec .frag s = .next (errorRecorded 1 { s with fidx := 0, tlen := 0, count := 0 })) ∧
    (Inv Config.params s → keyValid s = false → frameCount s.len.toNat ≤ s.maxf.toNat → 0 < s.len.toNat →
      exec .frag s = .next (errorRecorded 6 { s with
        fidx := 0, tlen := s.len, count := BitVec.ofNat 16 (frameCount s.len.toNat)
        sflag := Config.startFlag, opc := s.opcfg, eflag := Config.endFlag
        pkt := BitVec.ofNat 16 (frameCount s.len.toNat), exp := BitVec.ofNat 16 (frameCount s.len.toNat)
        data := plainBlock (payloadOf Config.params s) 0 })) ∧
    (s.len = 0 → exec .frag s = .next { s with fidx := 0, tlen := 0, count := 0, err := 0 })

/-- 41_formatter.md R130: the laws of a produced sequence, read from the bytes of the slots: the flags, the opcode, the packet
count `c - i` that descends to 1, the expected count `c`, and each frame's checksum over its own header. -/
def Obligations.ProducedFramesObeyTheSequenceLaws : Prop :=
  ∀ s t : State, Inv Config.params s → exec .frag s = .next t → t.err = 0 →
    ∀ i, i < t.count.toNat →
      fmemByte Config.params t (32 * i) = Config.startFlag ∧
      fmemByte Config.params t (32 * i + 31) = Config.endFlag ∧
      dec16 (fmemByte Config.params t (32 * i + 1)) (fmemByte Config.params t (32 * i + 2)) = s.opcfg ∧
      (dec16 (fmemByte Config.params t (32 * i + 3)) (fmemByte Config.params t (32 * i + 4))).toNat = t.count.toNat - i ∧
      dec16 (fmemByte Config.params t (32 * i + 5)) (fmemByte Config.params t (32 * i + 6)) = t.count ∧
      dec16 (fmemByte Config.params t (32 * i + 29)) (fmemByte Config.params t (32 * i + 30)) =
        crc16 ((List.range 7).map fun o => fmemByte Config.params t (32 * i + o))

/-- 70_reset_and_hazards.md R225: the result of `FRAG` depends only on `LEN`, `MAXF`, `OPCFG`, `KEY`, `KEYW`, the payload bytes
and the parameters: two states that agree on those have the same result, the same count and the same frames. -/
def Obligations.FragDependsOnlyOnItsInputs : Prop :=
  ∀ s u : State, Inv Config.params s → Inv Config.params u →
    s.len = u.len → s.maxf = u.maxf → s.opcfg = u.opcfg → s.key = u.key → s.keyw = u.keyw →
    (∀ a, a < s.len.toNat → pmemByte Config.params s a = pmemByte Config.params u a) →
    ∃ t v, exec .frag s = .next t ∧ exec .frag u = .next v ∧ t.err = v.err ∧ t.count = v.count ∧
      t.tlen = v.tlen ∧ t.fidx = v.fidx ∧
      (t.err = 0 → ∀ a, a < 32 * t.count.toNat → fmemByte Config.params t a = fmemByte Config.params v a)

/-! ### The receive path -/

/-- 20_memory.md R65: `unpack` is total, and `unpack` and `pack` are inverse to each other. -/
def Obligations.UnpackAndPackAreInverse : Prop :=
  (∀ x : Fields, unpack (pack x) = x) ∧ (∀ f : Frame, pack (unpack f) = f)

/-- 42_deformatter.md R154, R151: `DFM.BEGIN` clears `FIDX` and `OUTLEN` and ends with `OK` exactly when the last frame's length
can be determined; otherwise it records `TruncationAmbiguous`. -/
def Obligations.DfmBeginTestsTheLength : Prop :=
  encode .dfmBegin = 0x3000 ∧ ∀ s : State, exec .dfmBegin s =
    if s.ctrl.getLsbD 0 = true ∨ (s.ctrl.getLsbD 1 = true ∧ (s.rxlen.toNat + 21) / 22 = s.nfr.toNat) then
      .next { s with fidx := 0, outlen := 0, err := 0 }
    else .next (errorRecorded 4 { s with fidx := 0, outlen := 0 })

/-- 42_deformatter.md R155, 20_memory.md R65: `DFM.UNPACK` reads slot `FIDX` into all six frame registers and `DATA` and changes
nothing else but `ERR`. -/
def Obligations.DfmUnpackReadsTheSlot : Prop :=
  ∀ s : State, Inv Config.params s → s.fidx.toNat < s.nfr.toNat →
    ∃ t, exec .dfmUnpack s = .next t ∧
      t = { s with
        sflag := fmemByte Config.params s (32 * s.fidx.toNat)
        opc := dec16 (fmemByte Config.params s (32 * s.fidx.toNat + 1)) (fmemByte Config.params s (32 * s.fidx.toNat + 2))
        pkt := dec16 (fmemByte Config.params s (32 * s.fidx.toNat + 3)) (fmemByte Config.params s (32 * s.fidx.toNat + 4))
        exp := dec16 (fmemByte Config.params s (32 * s.fidx.toNat + 5)) (fmemByte Config.params s (32 * s.fidx.toNat + 6))
        data := t.data
        csum := dec16 (fmemByte Config.params s (32 * s.fidx.toNat + 29)) (fmemByte Config.params s (32 * s.fidx.toNat + 30))
        eflag := fmemByte Config.params s (32 * s.fidx.toNat + 31)
        err := 0 } ∧
      ∀ j (_ : j < 22), t.data[j] = fmemByte Config.params s (32 * s.fidx.toNat + 7 + j)

/-- 42_deformatter.md R156: `DFM.CHECK` leaves the recomputed checksum in `ACC`, compares it with `CSUM`, then `EXP` with `NFR`,
and changes nothing else but `STATUS`. -/
def Obligations.DfmCheckComparesChecksumThenCount : Prop :=
  encode .dfmCheck = 0x3200 ∧ ∀ s : State, exec .dfmCheck s =
    if hdrCsum s.sflag s.opc s.pkt s.exp ≠ s.csum then
      .next (errorRecorded 2 { s with acc := hdrCsum s.sflag s.opc s.pkt s.exp })
    else if s.exp ≠ s.nfr then .next (errorRecorded 3 { s with acc := hdrCsum s.sflag s.opc s.pkt s.exp })
    else .next { s with acc := hdrCsum s.sflag s.opc s.pkt s.exp, err := 0 }

/-- 42_deformatter.md R157: with a key `DFM.DEC` replaces `DATA` by `Dec(KEY, DATA)`, without one it records `NoKey`. -/
def Obligations.DfmDecDeciphersTheDataField : Prop :=
  encode .dfmDec = 0x3300 ∧ ∀ s : State, exec .dfmDec s =
    if ∀ j (_ : j < 16), s.keyw[j] = true then .next { s with data := Config.dec s.key s.data, err := 0 }
    else .next (errorRecorded 6 s)

/-- 42_deformatter.md R158: `DFM.STORE` of a frame that is not the last, or whose length can be determined, stores its `n` real
bytes at payload offset `22 * FIDX` and nothing else, sets `OUTLEN` to `22 * FIDX + n` and adds 1 to `FIDX`. -/
def Obligations.DfmStoreAppendsTheRealBytes : Prop :=
  ∀ (s : State) (n : Nat), Inv Config.params s → s.fidx.toNat < s.nfr.toNat →
    (if s.fidx.toNat < s.nfr.toNat - 1 then n = 22
      else if s.ctrl.getLsbD 0 = true then
        n ≤ 22 ∧ (∀ j (_ : j < 22), j < n → s.data[j] ≠ 0) ∧ (∀ _ : n < 22, s.data[n] = 0)
      else s.ctrl.getLsbD 1 = true ∧ (s.rxlen.toNat + 21) / 22 = s.nfr.toNat ∧
        n = s.rxlen.toNat - 22 * (s.nfr.toNat - 1)) →
    ∃ t, exec .dfmStore s = .next t ∧
      t = { s with pmem := t.pmem, outlen := t.outlen, fidx := s.fidx + 1, err := 0 } ∧
      t.fidx.toNat = s.fidx.toNat + 1 ∧ t.outlen.toNat = 22 * s.fidx.toNat + n ∧ n ≤ 22 ∧
      (∀ j (_ : j < 22), j < n → pmemByte Config.params t (22 * s.fidx.toNat + j) = s.data[j]) ∧
      (∀ a, a < 22 * s.fidx.toNat ∨ 22 * s.fidx.toNat + n ≤ a →
        pmemByte Config.params t a = pmemByte Config.params s a)

/-- 42_deformatter.md R155, R158: with no frame `FIDX` in the receive sequence, `DFM.UNPACK` and `DFM.STORE` record `OpRange`; at
the last frame in `EXPLICIT` mode with a length that cannot be, `DFM.STORE` records `TruncationAmbiguous`. Nothing is written. -/
def Obligations.ReceiveCommandsThatCannotGoOnWriteNothing : Prop :=
  (∀ s : State, s.nfr.toNat ≤ s.fidx.toNat →
    exec .dfmUnpack s = .next (errorRecorded 7 s) ∧ exec .dfmStore s = .next (errorRecorded 7 s)) ∧
  (∀ s : State, s.fidx.toNat + 1 = s.nfr.toNat → s.ctrl.getLsbD 0 = false →
    ¬(s.ctrl.getLsbD 1 = true ∧ (s.rxlen.toNat + 21) / 22 = s.nfr.toNat) →
    exec .dfmStore s = .next (errorRecorded 4 s))

/-- 42_deformatter.md R159: `DEFRAG` computes `defragment` of R150 from slots 0 to `NFR - 1` into `PMEM[0 .. OUTLEN-1]` and leaves
`FMEM`, the `PMEM` bytes from `OUTLEN` upward and every register outside the receive path; where `defragment` is an error,
`DEFRAG` records it. -/
def Obligations.DefragComputesDefragment : Prop :=
  ∀ s : State, Inv Config.params s → keyValid s = true →
    (∀ out, defragment Config.params (framesOf Config.params s) s.key (lenMode s) (lenValid s.ctrl) s.rxlen.toNat = .ok out →
      ∃ t, exec .defrag s = .next t ∧ t.err = 0 ∧ t.stkerr = s.stkerr ∧ t.fidx = s.nfr ∧
        t.outlen.toNat = out.length ∧
        (∀ a (_ : a < out.length), pmemByte Config.params t a = out[a]) ∧
        (∀ a, out.length ≤ a → pmemByte Config.params t a = pmemByte Config.params s a) ∧
        (∀ f, (framesOf Config.params s).getLast? = some f →
          t.fields = { unpack f with data := Config.dec s.key (unpack f).data } ∧ t.acc = t.csum) ∧
        t = { s with
          sflag := t.sflag, opc := t.opc, pkt := t.pkt, exp := t.exp, csum := t.csum, eflag := t.eflag, data := t.data
          acc := t.acc, fidx := t.fidx, outlen := t.outlen, pmem := t.pmem, err := 0 }) ∧
    (∀ e, defragment Config.params (framesOf Config.params s) s.key (lenMode s) (lenValid s.ctrl) s.rxlen.toNat = .error e →
      ∃ t, exec .defrag s = .next t ∧ t.err = e.code ∧ t.stkerr = (if s.stkerr = 0 then e.code else s.stkerr) ∧
        t.fmem = s.fmem)

/-- 42_deformatter.md R159, 60_exceptions.md R192: when frame `k` is the first that does not pass its check, `DEFRAG` ends there:
`FIDX = k`, `OUTLEN = 22 * k`, the frame registers hold the frame as unpacked with `DATA` still encrypted, `ACC` the
recomputed checksum, and the bytes of the frames before it are in `PMEM`. -/
def Obligations.DefragStopsAtTheOffendingFrame : Prop :=
  ∀ (s : State) (k : Nat), Inv Config.params s → keyValid s = true →
    lenOk s.nfr.toNat (lenMode s) (lenValid s.ctrl) s.rxlen.toNat = true →
    k < s.nfr.toNat → (∀ i, i < k → framePasses Config.params s i) → ¬framePasses Config.params s k →
    ∃ t, exec .defrag s = .next t ∧ t.fidx.toNat = k ∧ t.outlen.toNat = 22 * k ∧
      t.fields = unpack (readSlot Config.params s k) ∧ t.acc = hdrCsum t.sflag t.opc t.pkt t.exp ∧
      t.err = (if t.acc ≠ t.csum then 2 else 3) ∧
      (∀ i j (_ : j < 22), i < k → pmemByte Config.params t (22 * i + j) =
        (Config.dec s.key (unpack (readSlot Config.params s i)).data)[j]) ∧
      (∀ a, 22 * k ≤ a → pmemByte Config.params t a = pmemByte Config.params s a) ∧ t.fmem = s.fmem

/-- 42_deformatter.md R159: without a key `DEFRAG` stops at frame 0, with the error of its check or else `NoKey`; `FIDX` and
`OUTLEN` are 0 and `PMEM` is untouched. A length that cannot be is reported before everything. -/
def Obligations.DefragWithoutAKeyStopsAtTheFirstFrame : Prop :=
  (∀ s : State, lenOk s.nfr.toNat (lenMode s) (lenValid s.ctrl) s.rxlen.toNat = false →
    exec .defrag s = .next (errorRecorded 4 { s with fidx := 0, outlen := 0 })) ∧
  (∀ s : State, Inv Config.params s → keyValid s = false → 0 < s.nfr.toNat →
    lenOk s.nfr.toNat (lenMode s) (lenValid s.ctrl) s.rxlen.toNat = true →
    ∃ t, exec .defrag s = .next t ∧ t.fidx = 0 ∧ t.outlen = 0 ∧ t.pmem = s.pmem ∧ t.fmem = s.fmem ∧
      t.fields = unpack (readSlot Config.params s 0) ∧ t.acc = hdrCsum t.sflag t.opc t.pkt t.exp ∧
      t.err = (if t.acc ≠ t.csum then 2 else if t.exp ≠ s.nfr then 3 else 6))

/-- 70_reset_and_hazards.md R225: the result of `DEFRAG` depends only on `NFR`, `CTRL`, `RXLEN`, `KEY`, `KEYW`, the frames and the
parameters: two states that agree on those end with the same error, index, length and recovered bytes. -/
def Obligations.DefragDependsOnlyOnItsInputs : Prop :=
  ∀ s u : State, Inv Config.params s → Inv Config.params u →
    s.nfr = u.nfr → s.ctrl = u.ctrl → s.rxlen = u.rxlen → s.key = u.key → s.keyw = u.keyw →
    (∀ a, a < 32 * s.nfr.toNat → fmemByte Config.params s a = fmemByte Config.params u a) →
    ∃ t v, exec .defrag s = .next t ∧ exec .defrag u = .next v ∧ t.err = v.err ∧ t.fidx = v.fidx ∧
      t.outlen = v.outlen ∧
      ∀ a, a < t.outlen.toNat → pmemByte Config.params t a = pmemByte Config.params v a

/-- 42_deformatter.md R161: the round trip, for any parameters whose `Dec` undoes `Enc`. A payload that fits is fragmented, and a
receiver given the frames, their number, the key and the length recovers exactly the payload. The bodies are those `exec`
runs. -/
def Obligations.RoundTripRecoversThePayload : Prop :=
  (∀ s : State, exec .frag s = finish (frag Config.params s) ∧ exec .defrag s = finish (defrag Config.params s)) ∧
  ∀ (p : Params) (s : State), (∀ k d, p.dec k (p.enc k d) = d) → Inv p s → keyValid s = true →
    s.len.toNat ≤ 22 * s.maxf.toNat →
    ∃ t, frag p s = .ended t .ok ∧
      ∀ u, ReceiverReady p s.len s.key t u →
        (∀ a, a < 32 * t.count.toNat → fmemByte p u a = fmemByte p t a) →
        ∃ v, defrag p u = .ended v .ok ∧ v.outlen = s.len ∧
          ∀ a, a < s.len.toNat → pmemByte p v a = pmemByte p s a

/-- 42_deformatter.md R162: one header byte of one frame, or one byte of its checksum, changed on the way: `DEFRAG` ends with
`ChecksumMismatch` at that frame, for any parameters and any cipher. -/
def Obligations.TamperedHeaderIsReportedAtItsFrame : Prop :=
  ∀ (p : Params) (s t u : State) (k o : Nat), Inv p s → frag p s = .ended t .ok → ReceiverReady p s.len s.key t u →
    k < t.count.toNat → (o < 7 ∨ o = 29 ∨ o = 30) →
    fmemByte p u (32 * k + o) ≠ fmemByte p t (32 * k + o) →
    (∀ a, a < 32 * t.count.toNat → a ≠ 32 * k + o → fmemByte p u a = fmemByte p t a) →
    ∃ v, defrag p u = .ended v .checksumMismatch ∧ v.fidx.toNat = k

/-! ### Every command -/

/-- 10_state.md R43, R44: the machine right after reset meets the invariants. -/
def Obligations.ResetMeetsTheInvariants : Prop := Inv Config.params State.reset

/-- 10_state.md R43: every step keeps the invariants, from every state that meets them. -/
def Obligations.EveryStepKeepsTheInvariants : Prop :=
  ∀ s t : State, Inv Config.params s → step s = .next t → Inv Config.params t

/-- 10_state.md R43, clause by clause: what holds after reset and after any sequence of host actions. -/
def Obligations.InvariantsHoldInEveryRun : Prop :=
  ∀ (actions : List HostAction) (n : Nat) (t : State),
    Host.Core.run core n { State.reset with todo := actions } = .next t →
      t.maxf.toNat ≤ Config.params.nslot ∧ t.nfr.toNat ≤ Config.params.nslot ∧
      t.count.toNat = (t.tlen.toNat + 21) / 22 ∧ t.count.toNat ≤ Config.params.nslot ∧
      t.tlen.toNat ≤ 22 * Config.params.nslot ∧ t.fidx.toNat ≤ Config.params.nslot ∧
      t.outlen.toNat ≤ 22 * Config.params.nslot ∧ (statusWord t).getLsbD 7 = false ∧
      ∀ b, 2 ≤ b → t.ctrl.getLsbD b = false

/-- 43_system.md R183, 20_memory.md R66, R67: in a state that meets the invariants every command ends, with a result: it forms no
address beyond a memory and is never refused. -/
def Obligations.EveryCommandEndsWithAResult : Prop :=
  ∀ (i : Instr) (s : State), Inv Config.params s → ∃ t, exec i s = .next t

/-- 20_memory.md R69, 93 U2: in a state that meets the invariants a step stops only where the host names a byte beyond a memory,
and then by that refusal. -/
def Obligations.OnlyHostAccessesBeyondAMemoryStop : Prop :=
  ∀ s : State, Inv Config.params s →
    (∃ t, step s = .next t) ∨
    (∃ a b rest, (s.todo = .pmRead a :: rest ∨ s.todo = .pmWrite a b :: rest) ∧ Config.params.nslot * 22 ≤ a ∧
      step s = .refused (.hostPmemRange a)) ∨
    (∃ a b rest, (s.todo = .fmRead a :: rest ∨ s.todo = .fmWrite a b :: rest) ∧ Config.params.nslot * 32 ≤ a ∧
      step s = .refused (.hostFmemRange a))

/-- 60_exceptions.md R193: the write-back of every command: `STKERR` keeps the first non-zero code, and only `CLRERR` clears it. -/
def Obligations.StickyErrorKeepsTheFirstCode : Prop :=
  ∀ (i : Instr) (s t : State), exec i s = .next t →
    t.stkerr = (if i = .clrerr then 0 else if s.stkerr = 0 then t.err else s.stkerr)

/-- 60_exceptions.md R191: the results each command can have, by code. -/
def Obligations.EachCommandHasOnlyItsResults : Prop :=
  ∀ (i : Instr) (s t : State), exec i s = .next t →
    t.err ∈ (match i with
      | .nop | .clrerr | .crcInit | .crcUpd _ | .fmtCsum => [0]
      | .fmtBegin => [0, 1]
      | .fmtHdr | .fmtLoad | .fmtPack | .dfmUnpack => [0, 7]
      | .fmtEnc | .dfmDec => [0, 6]
      | .frag => [0, 1, 6]
      | .dfmBegin => [0, 4]
      | .dfmCheck => [0, 2, 3]
      | .dfmStore => [0, 4, 7]
      | .defrag => [0, 2, 3, 4, 6] : List (BitVec 3))

/-- 10_state.md R21 to R41: which commands write which state. No command writes `KEY`, `KEYW`, `CTRL`, `LEN`, `MAXF`, `NFR`,
`RXLEN` or `OPCFG`; every other register and memory is written by the commands its rule names and by no other. -/
def Obligations.EachRegisterIsWrittenOnlyByItsCommands : Prop :=
  ∀ (i : Instr) (s t : State), exec i s = .next t →
    t.key = s.key ∧ t.keyw = s.keyw ∧ t.ctrl = s.ctrl ∧ t.len = s.len ∧ t.maxf = s.maxf ∧ t.nfr = s.nfr ∧
    t.rxlen = s.rxlen ∧ t.opcfg = s.opcfg ∧ t.epoch = s.epoch ∧ t.todo = s.todo ∧ t.seen = s.seen ∧
    (i ∉ [.fmtBegin, .frag] → t.tlen = s.tlen ∧ t.count = s.count) ∧
    (i ∉ [.fmtBegin, .fmtPack, .frag, .dfmBegin, .dfmStore, .defrag] → t.fidx = s.fidx) ∧
    (i ∉ [.dfmBegin, .dfmStore, .defrag] → t.outlen = s.outlen) ∧
    (i ∉ [.dfmStore, .defrag] → t.pmem = s.pmem) ∧
    (i ∉ [.fmtPack, .frag] → t.fmem = s.fmem) ∧
    ((∀ b, i ≠ .crcUpd b) → i ∉ [.crcInit, .fmtCsum, .dfmCheck, .frag, .defrag] → t.acc = s.acc) ∧
    (i ∉ [.fmtHdr, .dfmUnpack, .frag, .defrag] →
      t.sflag = s.sflag ∧ t.opc = s.opc ∧ t.pkt = s.pkt ∧ t.exp = s.exp ∧ t.eflag = s.eflag) ∧
    (i ∉ [.fmtCsum, .dfmUnpack, .frag, .defrag] → t.csum = s.csum) ∧
    (i ∉ [.fmtLoad, .fmtEnc, .dfmUnpack, .dfmDec, .frag, .defrag] → t.data = s.data)

/-- 10_state.md R25: `FIDX` is set to 0 by `FMT.BEGIN` and `DFM.BEGIN`, and advances by exactly 1, without wrapping, in `FMT.PACK`
and `DFM.STORE` when they end with `OK`; when they raise it stays. -/
def Obligations.FrameIndexAdvancesByOne : Prop :=
  ∀ (i : Instr) (s t : State), exec i s = .next t →
    (i = .fmtBegin ∨ i = .dfmBegin → t.fidx = 0) ∧
    (i = .fmtPack ∨ i = .dfmStore →
      (t.err = 0 → t.fidx.toNat = s.fidx.toNat + 1) ∧ (t.err ≠ 0 → t.fidx = s.fidx))

/-- 10_state.md R42, R44: key bytes that have not been written since reset cannot be observed: two states that differ only there
make the same step, and the states after it differ only there. What `State.reset` holds in them (log 4) is therefore without
consequence. -/
def Obligations.UnwrittenKeyBytesAreUnobservable : Prop :=
  ∀ (s : State) (k : Key), (∀ j (_ : j < 16), s.keyw[j] = true → k[j] = s.key[j]) →
    (∃ t k', step s = .next t ∧ step { s with key := k } = .next { t with key := k' } ∧
      ∀ j (_ : j < 16), t.keyw[j] = true → k'[j] = t.key[j]) ∨
    (∃ f, step s = .fault f ∧ step { s with key := k } = .fault f) ∨
    (∃ q, step s = .refused q ∧ step { s with key := k } = .refused q)

/-! ### The host interface and reset -/

/-- 10_state.md R38, R39: `RegRead` returns the value of the register of that number and changes nothing of the block; `CMD`, `KEY`
and the reserved numbers read 0, `STATUS` reads `ERR + 8 * STKERR + 64 * KEYV`. -/
def Obligations.RegReadReturnsTheNumberedRegister : Prop :=
  ∀ (s : State) (n : Byte) (rest : List HostAction), s.todo = .regRead n :: rest →
    ∃ v, step s = .next { s with todo := rest, seen := s.seen ++ [v] } ∧
      (n = 0x01 → v = s.err.toNat + 8 * s.stkerr.toNat + (if ∀ j (_ : j < 16), s.keyw[j] = true then 64 else 0)) ∧
      (n = 0x02 → v = s.ctrl.toNat) ∧ (n = 0x03 → v = s.len.toNat) ∧ (n = 0x04 → v = s.tlen.toNat) ∧
      (n = 0x05 → v = s.count.toNat) ∧ (n = 0x06 → v = s.fidx.toNat) ∧ (n = 0x07 → v = s.maxf.toNat) ∧
      (n = 0x08 → v = s.nfr.toNat) ∧ (n = 0x09 → v = s.rxlen.toNat) ∧ (n = 0x0A → v = s.outlen.toNat) ∧
      (n = 0x0B → v = s.opcfg.toNat) ∧ (n = 0x0C → v = s.acc.toNat) ∧ (n = 0x10 → v = s.sflag.toNat) ∧
      (n = 0x11 → v = s.opc.toNat) ∧ (n = 0x12 → v = s.pkt.toNat) ∧ (n = 0x13 → v = s.exp.toNat) ∧
      (n = 0x14 → v = s.csum.toNat) ∧ (n = 0x15 → v = s.eflag.toNat) ∧
      (∀ j (_ : j < 22), n.toNat = 0x20 + j → v = s.data[j].toNat) ∧
      (n = 0x00 ∨ (0x0D ≤ n.toNat ∧ n.toNat ≤ 0x0F) ∨ (0x16 ≤ n.toNat ∧ n.toNat ≤ 0x1F) ∨ 0x36 ≤ n.toNat → v = 0)

/-- 10_state.md R39, R33, R34, R28, R23: what `RegWrite` stores: the value modulo the register's width, `MAXF` and `NFR` at most
`NSLOT`, two bits of `CTRL`; a `KEY` byte also sets its written flag; a read-only or reserved number ignores the write; nothing
else changes. -/
def Obligations.RegWriteStoresTheReducedValue : Prop :=
  ∀ (s : State) (n : Byte) (v : Nat) (rest : List HostAction), s.todo = .regWrite n v :: rest →
    (n = 0x02 → step s = .next { s with todo := rest, ctrl := BitVec.ofNat 8 (v % 4) }) ∧
    (n = 0x03 → step s = .next { s with todo := rest, len := BitVec.ofNat 32 v }) ∧
    (n = 0x07 → step s = .next { s with todo := rest, maxf := BitVec.ofNat 16 (min (v % 65536) Config.params.nslot) }) ∧
    (n = 0x08 → step s = .next { s with todo := rest, nfr := BitVec.ofNat 16 (min (v % 65536) Config.params.nslot) }) ∧
    (n = 0x09 → step s = .next { s with todo := rest, rxlen := BitVec.ofNat 32 v }) ∧
    (n = 0x0B → step s = .next { s with todo := rest, opcfg := BitVec.ofNat 16 v }) ∧
    (n = 0x10 → step s = .next { s with todo := rest, sflag := BitVec.ofNat 8 v }) ∧
    (n = 0x11 → step s = .next { s with todo := rest, opc := BitVec.ofNat 16 v }) ∧
    (n = 0x12 → step s = .next { s with todo := rest, pkt := BitVec.ofNat 16 v }) ∧
    (n = 0x13 → step s = .next { s with todo := rest, exp := BitVec.ofNat 16 v }) ∧
    (n = 0x14 → step s = .next { s with todo := rest, csum := BitVec.ofNat 16 v }) ∧
    (n = 0x15 → step s = .next { s with todo := rest, eflag := BitVec.ofNat 8 v }) ∧
    (∀ j (_ : j < 22), n.toNat = 0x20 + j →
      step s = .next { s with todo := rest, data := s.data.set j (BitVec.ofNat 8 v) }) ∧
    (∀ j (_ : j < 16), n.toNat = 0x40 + j →
      step s = .next { s with todo := rest, key := s.key.set j (BitVec.ofNat 8 v), keyw := s.keyw.set j true }) ∧
    (n ∈ [0x01, 0x04, 0x05, 0x06, 0x0A, 0x0C] ∨ (0x0D ≤ n.toNat ∧ n.toNat ≤ 0x0F) ∨
      (0x16 ≤ n.toNat ∧ n.toNat ≤ 0x1F) ∨ (0x36 ≤ n.toNat ∧ n.toNat ≤ 0x3F) ∨ 0x50 ≤ n.toNat →
      step s = .next { s with todo := rest })

/-- 10_state.md R27, R39: no host access other than a write to `CMD` (and `Reset`) changes `ERR` or `STKERR`, and no register
access other than a command can fail, whatever the state, the number and the value. -/
def Obligations.OnlyCommandsChangeTheErrorFields : Prop :=
  (∀ (s t : State) (a : HostAction) (rest : List HostAction), s.todo = a :: rest → a ≠ .reset →
    (∀ v, a ≠ .regWrite 0x00 v) → step s = .next t → t.err = s.err ∧ t.stkerr = s.stkerr) ∧
  (∀ (s : State) (n : Byte) (v : Nat) (rest : List HostAction),
    s.todo = .regRead n :: rest ∨ (s.todo = .regWrite n v :: rest ∧ n ≠ 0x00) → ∃ t, step s = .next t)

/-- 20_memory.md R69, R71: a host byte write is what the next read of that byte returns; it changes no other byte of either memory
and no register; the two memories are disjoint. -/
def Obligations.HostByteWritesAreReadBack : Prop :=
  ∀ (s : State) (a : Nat) (b : Byte) (rest : List HostAction),
    (s.todo = .pmWrite a b :: .pmRead a :: rest → a < Config.params.nslot * 22 →
      ∃ t, Host.Core.run core 2 s = .next t ∧ t = { s with todo := rest, pmem := t.pmem, seen := s.seen ++ [b.toNat] } ∧
        pmemByte Config.params t a = b ∧ ∀ x, x ≠ a → pmemByte Config.params t x = pmemByte Config.params s x) ∧
    (s.todo = .fmWrite a b :: .fmRead a :: rest → a < Config.params.nslot * 32 →
      ∃ t, Host.Core.run core 2 s = .next t ∧ t = { s with todo := rest, fmem := t.fmem, seen := s.seen ++ [b.toNat] } ∧
        fmemByte Config.params t a = b ∧ ∀ x, x ≠ a → fmemByte Config.params t x = fmemByte Config.params s x)

/-- 10_state.md R44: the reset value of every register for which the spec gives one; `KEY` and the contents of the memories are
unspecified and not stated. -/
def Obligations.ResetLeavesTheSpecifiedValues : Prop :=
  State.reset.err = 0 ∧ State.reset.stkerr = 0 ∧ (∀ j (_ : j < 16), State.reset.keyw[j] = false) ∧
  keyValid State.reset = false ∧ State.reset.ctrl = 0 ∧ State.reset.len = 0 ∧ State.reset.tlen = 0 ∧
  State.reset.rxlen = 0 ∧ State.reset.outlen = 0 ∧ State.reset.count = 0 ∧ State.reset.fidx = 0 ∧
  State.reset.nfr = 0 ∧ State.reset.maxf.toNat = Config.params.nslot ∧ State.reset.opcfg = Config.opcodeReset ∧
  State.reset.acc = 0xFFFF ∧ State.reset.sflag = 0 ∧ State.reset.opc = 0 ∧ State.reset.pkt = 0 ∧
  State.reset.exp = 0 ∧ State.reset.csum = 0 ∧ State.reset.eflag = 0 ∧ (∀ j (_ : j < 22), State.reset.data[j] = 0)

/-- 70_reset_and_hazards.md R220: the `Reset` action puts every register into its reset value whatever the state was; the host's
own list and what it has read are not the block's and stay (logs 1, 2). -/
def Obligations.ResetActionRestoresTheResetValues : Prop :=
  ∀ (s : State) (rest : List HostAction), s.todo = .reset :: rest →
    ∃ t, step s = .next t ∧
      t = { State.reset with pmem := t.pmem, fmem := t.fmem, epoch := t.epoch, todo := rest, seen := s.seen }

/-- 70_reset_and_hazards.md R221: every command on the reset state: its result and what it changes. -/
def Obligations.CommandsOnTheResetState : Prop :=
  (∀ i ∈ [Instr.nop, .clrerr, .crcInit, .fmtBegin, .frag], exec i State.reset = .next State.reset) ∧
  (∀ i ∈ [Instr.fmtHdr, .fmtLoad, .fmtPack, .dfmUnpack, .dfmStore],
    exec i State.reset = .next (errorRecorded 7 State.reset)) ∧
  (∀ i ∈ [Instr.fmtEnc, .dfmDec], exec i State.reset = .next (errorRecorded 6 State.reset)) ∧
  (∀ i ∈ [Instr.dfmBegin, .defrag], exec i State.reset = .next (errorRecorded 4 State.reset)) ∧
  exec .dfmCheck State.reset = .next (errorRecorded 2 { State.reset with acc := 0xF1CE }) ∧
  exec .fmtCsum State.reset = .next { State.reset with acc := 0xF1CE, csum := 0xF1CE } ∧
  (∀ b, exec (.crcUpd b) State.reset = .next { State.reset with acc := crcStep 0xFFFF b })
end

