-- ==== Sys2Proof/Laws/State.lean ====
section
/-! SUPPORT. What each named update of the state leaves in each field: one lemma per field per update, true by `rfl`,
so that no proof unfolds a record update. -/

namespace Sys2Proof.Machine

/-! ### `writeBack` -/

@[simp] theorem writeBack_sflag (r : Result) (s : State) : (writeBack r s).sflag = s.sflag := rfl
@[simp] theorem writeBack_opc (r : Result) (s : State) : (writeBack r s).opc = s.opc := rfl
@[simp] theorem writeBack_pkt (r : Result) (s : State) : (writeBack r s).pkt = s.pkt := rfl
@[simp] theorem writeBack_exp (r : Result) (s : State) : (writeBack r s).exp = s.exp := rfl
@[simp] theorem writeBack_csum (r : Result) (s : State) : (writeBack r s).csum = s.csum := rfl
@[simp] theorem writeBack_eflag (r : Result) (s : State) : (writeBack r s).eflag = s.eflag := rfl
@[simp] theorem writeBack_data (r : Result) (s : State) : (writeBack r s).data = s.data := rfl
@[simp] theorem writeBack_key (r : Result) (s : State) : (writeBack r s).key = s.key := rfl
@[simp] theorem writeBack_keyw (r : Result) (s : State) : (writeBack r s).keyw = s.keyw := rfl
@[simp] theorem writeBack_acc (r : Result) (s : State) : (writeBack r s).acc = s.acc := rfl
@[simp] theorem writeBack_err (r : Result) (s : State) : (writeBack r s).err = r.code := rfl
@[simp] theorem writeBack_stkerr (r : Result) (s : State) : (writeBack r s).stkerr = (if r.code ≠ 0 ∧ s.stkerr = 0 then r.code else s.stkerr) := rfl
@[simp] theorem writeBack_ctrl (r : Result) (s : State) : (writeBack r s).ctrl = s.ctrl := rfl
@[simp] theorem writeBack_len (r : Result) (s : State) : (writeBack r s).len = s.len := rfl
@[simp] theorem writeBack_tlen (r : Result) (s : State) : (writeBack r s).tlen = s.tlen := rfl
@[simp] theorem writeBack_count (r : Result) (s : State) : (writeBack r s).count = s.count := rfl
@[simp] theorem writeBack_fidx (r : Result) (s : State) : (writeBack r s).fidx = s.fidx := rfl
@[simp] theorem writeBack_maxf (r : Result) (s : State) : (writeBack r s).maxf = s.maxf := rfl
@[simp] theorem writeBack_nfr (r : Result) (s : State) : (writeBack r s).nfr = s.nfr := rfl
@[simp] theorem writeBack_rxlen (r : Result) (s : State) : (writeBack r s).rxlen = s.rxlen := rfl
@[simp] theorem writeBack_outlen (r : Result) (s : State) : (writeBack r s).outlen = s.outlen := rfl
@[simp] theorem writeBack_opcfg (r : Result) (s : State) : (writeBack r s).opcfg = s.opcfg := rfl
@[simp] theorem writeBack_pmem (r : Result) (s : State) : (writeBack r s).pmem = s.pmem := rfl
@[simp] theorem writeBack_fmem (r : Result) (s : State) : (writeBack r s).fmem = s.fmem := rfl
@[simp] theorem writeBack_epoch (r : Result) (s : State) : (writeBack r s).epoch = s.epoch := rfl
@[simp] theorem writeBack_todo (r : Result) (s : State) : (writeBack r s).todo = s.todo := rfl
@[simp] theorem writeBack_seen (r : Result) (s : State) : (writeBack r s).seen = s.seen := rfl

/-! ### `clearSticky` -/

@[simp] theorem clearSticky_sflag (s : State) : s.clearSticky.sflag = s.sflag := rfl
@[simp] theorem clearSticky_opc (s : State) : s.clearSticky.opc = s.opc := rfl
@[simp] theorem clearSticky_pkt (s : State) : s.clearSticky.pkt = s.pkt := rfl
@[simp] theorem clearSticky_exp (s : State) : s.clearSticky.exp = s.exp := rfl
@[simp] theorem clearSticky_csum (s : State) : s.clearSticky.csum = s.csum := rfl
@[simp] theorem clearSticky_eflag (s : State) : s.clearSticky.eflag = s.eflag := rfl
@[simp] theorem clearSticky_data (s : State) : s.clearSticky.data = s.data := rfl
@[simp] theorem clearSticky_key (s : State) : s.clearSticky.key = s.key := rfl
@[simp] theorem clearSticky_keyw (s : State) : s.clearSticky.keyw = s.keyw := rfl
@[simp] theorem clearSticky_acc (s : State) : s.clearSticky.acc = s.acc := rfl
@[simp] theorem clearSticky_err (s : State) : s.clearSticky.err = s.err := rfl
@[simp] theorem clearSticky_stkerr (s : State) : s.clearSticky.stkerr = 0 := rfl
@[simp] theorem clearSticky_ctrl (s : State) : s.clearSticky.ctrl = s.ctrl := rfl
@[simp] theorem clearSticky_len (s : State) : s.clearSticky.len = s.len := rfl
@[simp] theorem clearSticky_tlen (s : State) : s.clearSticky.tlen = s.tlen := rfl
@[simp] theorem clearSticky_count (s : State) : s.clearSticky.count = s.count := rfl
@[simp] theorem clearSticky_fidx (s : State) : s.clearSticky.fidx = s.fidx := rfl
@[simp] theorem clearSticky_maxf (s : State) : s.clearSticky.maxf = s.maxf := rfl
@[simp] theorem clearSticky_nfr (s : State) : s.clearSticky.nfr = s.nfr := rfl
@[simp] theorem clearSticky_rxlen (s : State) : s.clearSticky.rxlen = s.rxlen := rfl
@[simp] theorem clearSticky_outlen (s : State) : s.clearSticky.outlen = s.outlen := rfl
@[simp] theorem clearSticky_opcfg (s : State) : s.clearSticky.opcfg = s.opcfg := rfl
@[simp] theorem clearSticky_pmem (s : State) : s.clearSticky.pmem = s.pmem := rfl
@[simp] theorem clearSticky_fmem (s : State) : s.clearSticky.fmem = s.fmem := rfl
@[simp] theorem clearSticky_epoch (s : State) : s.clearSticky.epoch = s.epoch := rfl
@[simp] theorem clearSticky_todo (s : State) : s.clearSticky.todo = s.todo := rfl
@[simp] theorem clearSticky_seen (s : State) : s.clearSticky.seen = s.seen := rfl

/-! ### `setAcc` -/

@[simp] theorem setAcc_sflag (s : State) (a : Half) : (s.setAcc a).sflag = s.sflag := rfl
@[simp] theorem setAcc_opc (s : State) (a : Half) : (s.setAcc a).opc = s.opc := rfl
@[simp] theorem setAcc_pkt (s : State) (a : Half) : (s.setAcc a).pkt = s.pkt := rfl
@[simp] theorem setAcc_exp (s : State) (a : Half) : (s.setAcc a).exp = s.exp := rfl
@[simp] theorem setAcc_csum (s : State) (a : Half) : (s.setAcc a).csum = s.csum := rfl
@[simp] theorem setAcc_eflag (s : State) (a : Half) : (s.setAcc a).eflag = s.eflag := rfl
@[simp] theorem setAcc_data (s : State) (a : Half) : (s.setAcc a).data = s.data := rfl
@[simp] theorem setAcc_key (s : State) (a : Half) : (s.setAcc a).key = s.key := rfl
@[simp] theorem setAcc_keyw (s : State) (a : Half) : (s.setAcc a).keyw = s.keyw := rfl
@[simp] theorem setAcc_acc (s : State) (a : Half) : (s.setAcc a).acc = a := rfl
@[simp] theorem setAcc_err (s : State) (a : Half) : (s.setAcc a).err = s.err := rfl
@[simp] theorem setAcc_stkerr (s : State) (a : Half) : (s.setAcc a).stkerr = s.stkerr := rfl
@[simp] theorem setAcc_ctrl (s : State) (a : Half) : (s.setAcc a).ctrl = s.ctrl := rfl
@[simp] theorem setAcc_len (s : State) (a : Half) : (s.setAcc a).len = s.len := rfl
@[simp] theorem setAcc_tlen (s : State) (a : Half) : (s.setAcc a).tlen = s.tlen := rfl
@[simp] theorem setAcc_count (s : State) (a : Half) : (s.setAcc a).count = s.count := rfl
@[simp] theorem setAcc_fidx (s : State) (a : Half) : (s.setAcc a).fidx = s.fidx := rfl
@[simp] theorem setAcc_maxf (s : State) (a : Half) : (s.setAcc a).maxf = s.maxf := rfl
@[simp] theorem setAcc_nfr (s : State) (a : Half) : (s.setAcc a).nfr = s.nfr := rfl
@[simp] theorem setAcc_rxlen (s : State) (a : Half) : (s.setAcc a).rxlen = s.rxlen := rfl
@[simp] theorem setAcc_outlen (s : State) (a : Half) : (s.setAcc a).outlen = s.outlen := rfl
@[simp] theorem setAcc_opcfg (s : State) (a : Half) : (s.setAcc a).opcfg = s.opcfg := rfl
@[simp] theorem setAcc_pmem (s : State) (a : Half) : (s.setAcc a).pmem = s.pmem := rfl
@[simp] theorem setAcc_fmem (s : State) (a : Half) : (s.setAcc a).fmem = s.fmem := rfl
@[simp] theorem setAcc_epoch (s : State) (a : Half) : (s.setAcc a).epoch = s.epoch := rfl
@[simp] theorem setAcc_todo (s : State) (a : Half) : (s.setAcc a).todo = s.todo := rfl
@[simp] theorem setAcc_seen (s : State) (a : Half) : (s.setAcc a).seen = s.seen := rfl

/-! ### `setChecksum` -/

@[simp] theorem setChecksum_sflag (s : State) (c : Half) : (s.setChecksum c).sflag = s.sflag := rfl
@[simp] theorem setChecksum_opc (s : State) (c : Half) : (s.setChecksum c).opc = s.opc := rfl
@[simp] theorem setChecksum_pkt (s : State) (c : Half) : (s.setChecksum c).pkt = s.pkt := rfl
@[simp] theorem setChecksum_exp (s : State) (c : Half) : (s.setChecksum c).exp = s.exp := rfl
@[simp] theorem setChecksum_csum (s : State) (c : Half) : (s.setChecksum c).csum = c := rfl
@[simp] theorem setChecksum_eflag (s : State) (c : Half) : (s.setChecksum c).eflag = s.eflag := rfl
@[simp] theorem setChecksum_data (s : State) (c : Half) : (s.setChecksum c).data = s.data := rfl
@[simp] theorem setChecksum_key (s : State) (c : Half) : (s.setChecksum c).key = s.key := rfl
@[simp] theorem setChecksum_keyw (s : State) (c : Half) : (s.setChecksum c).keyw = s.keyw := rfl
@[simp] theorem setChecksum_acc (s : State) (c : Half) : (s.setChecksum c).acc = c := rfl
@[simp] theorem setChecksum_err (s : State) (c : Half) : (s.setChecksum c).err = s.err := rfl
@[simp] theorem setChecksum_stkerr (s : State) (c : Half) : (s.setChecksum c).stkerr = s.stkerr := rfl
@[simp] theorem setChecksum_ctrl (s : State) (c : Half) : (s.setChecksum c).ctrl = s.ctrl := rfl
@[simp] theorem setChecksum_len (s : State) (c : Half) : (s.setChecksum c).len = s.len := rfl
@[simp] theorem setChecksum_tlen (s : State) (c : Half) : (s.setChecksum c).tlen = s.tlen := rfl
@[simp] theorem setChecksum_count (s : State) (c : Half) : (s.setChecksum c).count = s.count := rfl
@[simp] theorem setChecksum_fidx (s : State) (c : Half) : (s.setChecksum c).fidx = s.fidx := rfl
@[simp] theorem setChecksum_maxf (s : State) (c : Half) : (s.setChecksum c).maxf = s.maxf := rfl
@[simp] theorem setChecksum_nfr (s : State) (c : Half) : (s.setChecksum c).nfr = s.nfr := rfl
@[simp] theorem setChecksum_rxlen (s : State) (c : Half) : (s.setChecksum c).rxlen = s.rxlen := rfl
@[simp] theorem setChecksum_outlen (s : State) (c : Half) : (s.setChecksum c).outlen = s.outlen := rfl
@[simp] theorem setChecksum_opcfg (s : State) (c : Half) : (s.setChecksum c).opcfg = s.opcfg := rfl
@[simp] theorem setChecksum_pmem (s : State) (c : Half) : (s.setChecksum c).pmem = s.pmem := rfl
@[simp] theorem setChecksum_fmem (s : State) (c : Half) : (s.setChecksum c).fmem = s.fmem := rfl
@[simp] theorem setChecksum_epoch (s : State) (c : Half) : (s.setChecksum c).epoch = s.epoch := rfl
@[simp] theorem setChecksum_todo (s : State) (c : Half) : (s.setChecksum c).todo = s.todo := rfl
@[simp] theorem setChecksum_seen (s : State) (c : Half) : (s.setChecksum c).seen = s.seen := rfl

/-! ### `setData` -/

@[simp] theorem setData_sflag (s : State) (d : Block) : (s.setData d).sflag = s.sflag := rfl
@[simp] theorem setData_opc (s : State) (d : Block) : (s.setData d).opc = s.opc := rfl
@[simp] theorem setData_pkt (s : State) (d : Block) : (s.setData d).pkt = s.pkt := rfl
@[simp] theorem setData_exp (s : State) (d : Block) : (s.setData d).exp = s.exp := rfl
@[simp] theorem setData_csum (s : State) (d : Block) : (s.setData d).csum = s.csum := rfl
@[simp] theorem setData_eflag (s : State) (d : Block) : (s.setData d).eflag = s.eflag := rfl
@[simp] theorem setData_data (s : State) (d : Block) : (s.setData d).data = d := rfl
@[simp] theorem setData_key (s : State) (d : Block) : (s.setData d).key = s.key := rfl
@[simp] theorem setData_keyw (s : State) (d : Block) : (s.setData d).keyw = s.keyw := rfl
@[simp] theorem setData_acc (s : State) (d : Block) : (s.setData d).acc = s.acc := rfl
@[simp] theorem setData_err (s : State) (d : Block) : (s.setData d).err = s.err := rfl
@[simp] theorem setData_stkerr (s : State) (d : Block) : (s.setData d).stkerr = s.stkerr := rfl
@[simp] theorem setData_ctrl (s : State) (d : Block) : (s.setData d).ctrl = s.ctrl := rfl
@[simp] theorem setData_len (s : State) (d : Block) : (s.setData d).len = s.len := rfl
@[simp] theorem setData_tlen (s : State) (d : Block) : (s.setData d).tlen = s.tlen := rfl
@[simp] theorem setData_count (s : State) (d : Block) : (s.setData d).count = s.count := rfl
@[simp] theorem setData_fidx (s : State) (d : Block) : (s.setData d).fidx = s.fidx := rfl
@[simp] theorem setData_maxf (s : State) (d : Block) : (s.setData d).maxf = s.maxf := rfl
@[simp] theorem setData_nfr (s : State) (d : Block) : (s.setData d).nfr = s.nfr := rfl
@[simp] theorem setData_rxlen (s : State) (d : Block) : (s.setData d).rxlen = s.rxlen := rfl
@[simp] theorem setData_outlen (s : State) (d : Block) : (s.setData d).outlen = s.outlen := rfl
@[simp] theorem setData_opcfg (s : State) (d : Block) : (s.setData d).opcfg = s.opcfg := rfl
@[simp] theorem setData_pmem (s : State) (d : Block) : (s.setData d).pmem = s.pmem := rfl
@[simp] theorem setData_fmem (s : State) (d : Block) : (s.setData d).fmem = s.fmem := rfl
@[simp] theorem setData_epoch (s : State) (d : Block) : (s.setData d).epoch = s.epoch := rfl
@[simp] theorem setData_todo (s : State) (d : Block) : (s.setData d).todo = s.todo := rfl
@[simp] theorem setData_seen (s : State) (d : Block) : (s.setData d).seen = s.seen := rfl

/-! ### `startTransmit` -/

@[simp] theorem startTransmit_sflag (s : State) (l : Long) (c : Half) : (s.startTransmit l c).sflag = s.sflag := rfl
@[simp] theorem startTransmit_opc (s : State) (l : Long) (c : Half) : (s.startTransmit l c).opc = s.opc := rfl
@[simp] theorem startTransmit_pkt (s : State) (l : Long) (c : Half) : (s.startTransmit l c).pkt = s.pkt := rfl
@[simp] theorem startTransmit_exp (s : State) (l : Long) (c : Half) : (s.startTransmit l c).exp = s.exp := rfl
@[simp] theorem startTransmit_csum (s : State) (l : Long) (c : Half) : (s.startTransmit l c).csum = s.csum := rfl
@[simp] theorem startTransmit_eflag (s : State) (l : Long) (c : Half) : (s.startTransmit l c).eflag = s.eflag := rfl
@[simp] theorem startTransmit_data (s : State) (l : Long) (c : Half) : (s.startTransmit l c).data = s.data := rfl
@[simp] theorem startTransmit_key (s : State) (l : Long) (c : Half) : (s.startTransmit l c).key = s.key := rfl
@[simp] theorem startTransmit_keyw (s : State) (l : Long) (c : Half) : (s.startTransmit l c).keyw = s.keyw := rfl
@[simp] theorem startTransmit_acc (s : State) (l : Long) (c : Half) : (s.startTransmit l c).acc = s.acc := rfl
@[simp] theorem startTransmit_err (s : State) (l : Long) (c : Half) : (s.startTransmit l c).err = s.err := rfl
@[simp] theorem startTransmit_stkerr (s : State) (l : Long) (c : Half) : (s.startTransmit l c).stkerr = s.stkerr := rfl
@[simp] theorem startTransmit_ctrl (s : State) (l : Long) (c : Half) : (s.startTransmit l c).ctrl = s.ctrl := rfl
@[simp] theorem startTransmit_len (s : State) (l : Long) (c : Half) : (s.startTransmit l c).len = s.len := rfl
@[simp] theorem startTransmit_tlen (s : State) (l : Long) (c : Half) : (s.startTransmit l c).tlen = l := rfl
@[simp] theorem startTransmit_count (s : State) (l : Long) (c : Half) : (s.startTransmit l c).count = c := rfl
@[simp] theorem startTransmit_fidx (s : State) (l : Long) (c : Half) : (s.startTransmit l c).fidx = 0 := rfl
@[simp] theorem startTransmit_maxf (s : State) (l : Long) (c : Half) : (s.startTransmit l c).maxf = s.maxf := rfl
@[simp] theorem startTransmit_nfr (s : State) (l : Long) (c : Half) : (s.startTransmit l c).nfr = s.nfr := rfl
@[simp] theorem startTransmit_rxlen (s : State) (l : Long) (c : Half) : (s.startTransmit l c).rxlen = s.rxlen := rfl
@[simp] theorem startTransmit_outlen (s : State) (l : Long) (c : Half) : (s.startTransmit l c).outlen = s.outlen := rfl
@[simp] theorem startTransmit_opcfg (s : State) (l : Long) (c : Half) : (s.startTransmit l c).opcfg = s.opcfg := rfl
@[simp] theorem startTransmit_pmem (s : State) (l : Long) (c : Half) : (s.startTransmit l c).pmem = s.pmem := rfl
@[simp] theorem startTransmit_fmem (s : State) (l : Long) (c : Half) : (s.startTransmit l c).fmem = s.fmem := rfl
@[simp] theorem startTransmit_epoch (s : State) (l : Long) (c : Half) : (s.startTransmit l c).epoch = s.epoch := rfl
@[simp] theorem startTransmit_todo (s : State) (l : Long) (c : Half) : (s.startTransmit l c).todo = s.todo := rfl
@[simp] theorem startTransmit_seen (s : State) (l : Long) (c : Half) : (s.startTransmit l c).seen = s.seen := rfl

/-! ### `setHeader` -/

@[simp] theorem setHeader_sflag (s : State) (sf : Byte) (o k e : Half) (ef : Byte) : (s.setHeader sf o k e ef).sflag = sf := rfl
@[simp] theorem setHeader_opc (s : State) (sf : Byte) (o k e : Half) (ef : Byte) : (s.setHeader sf o k e ef).opc = o := rfl
@[simp] theorem setHeader_pkt (s : State) (sf : Byte) (o k e : Half) (ef : Byte) : (s.setHeader sf o k e ef).pkt = k := rfl
@[simp] theorem setHeader_exp (s : State) (sf : Byte) (o k e : Half) (ef : Byte) : (s.setHeader sf o k e ef).exp = e := rfl
@[simp] theorem setHeader_csum (s : State) (sf : Byte) (o k e : Half) (ef : Byte) : (s.setHeader sf o k e ef).csum = s.csum := rfl
@[simp] theorem setHeader_eflag (s : State) (sf : Byte) (o k e : Half) (ef : Byte) : (s.setHeader sf o k e ef).eflag = ef := rfl
@[simp] theorem setHeader_data (s : State) (sf : Byte) (o k e : Half) (ef : Byte) : (s.setHeader sf o k e ef).data = s.data := rfl
@[simp] theorem setHeader_key (s : State) (sf : Byte) (o k e : Half) (ef : Byte) : (s.setHeader sf o k e ef).key = s.key := rfl
@[simp] theorem setHeader_keyw (s : State) (sf : Byte) (o k e : Half) (ef : Byte) : (s.setHeader sf o k e ef).keyw = s.keyw := rfl
@[simp] theorem setHeader_acc (s : State) (sf : Byte) (o k e : Half) (ef : Byte) : (s.setHeader sf o k e ef).acc = s.acc := rfl
@[simp] theorem setHeader_err (s : State) (sf : Byte) (o k e : Half) (ef : Byte) : (s.setHeader sf o k e ef).err = s.err := rfl
@[simp] theorem setHeader_stkerr (s : State) (sf : Byte) (o k e : Half) (ef : Byte) : (s.setHeader sf o k e ef).stkerr = s.stkerr := rfl
@[simp] theorem setHeader_ctrl (s : State) (sf : Byte) (o k e : Half) (ef : Byte) : (s.setHeader sf o k e ef).ctrl = s.ctrl := rfl
@[simp] theorem setHeader_len (s : State) (sf : Byte) (o k e : Half) (ef : Byte) : (s.setHeader sf o k e ef).len = s.len := rfl
@[simp] theorem setHeader_tlen (s : State) (sf : Byte) (o k e : Half) (ef : Byte) : (s.setHeader sf o k e ef).tlen = s.tlen := rfl
@[simp] theorem setHeader_count (s : State) (sf : Byte) (o k e : Half) (ef : Byte) : (s.setHeader sf o k e ef).count = s.count := rfl
@[simp] theorem setHeader_fidx (s : State) (sf : Byte) (o k e : Half) (ef : Byte) : (s.setHeader sf o k e ef).fidx = s.fidx := rfl
@[simp] theorem setHeader_maxf (s : State) (sf : Byte) (o k e : Half) (ef : Byte) : (s.setHeader sf o k e ef).maxf = s.maxf := rfl
@[simp] theorem setHeader_nfr (s : State) (sf : Byte) (o k e : Half) (ef : Byte) : (s.setHeader sf o k e ef).nfr = s.nfr := rfl
@[simp] theorem setHeader_rxlen (s : State) (sf : Byte) (o k e : Half) (ef : Byte) : (s.setHeader sf o k e ef).rxlen = s.rxlen := rfl
@[simp] theorem setHeader_outlen (s : State) (sf : Byte) (o k e : Half) (ef : Byte) : (s.setHeader sf o k e ef).outlen = s.outlen := rfl
@[simp] theorem setHeader_opcfg (s : State) (sf : Byte) (o k e : Half) (ef : Byte) : (s.setHeader sf o k e ef).opcfg = s.opcfg := rfl
@[simp] theorem setHeader_pmem (s : State) (sf : Byte) (o k e : Half) (ef : Byte) : (s.setHeader sf o k e ef).pmem = s.pmem := rfl
@[simp] theorem setHeader_fmem (s : State) (sf : Byte) (o k e : Half) (ef : Byte) : (s.setHeader sf o k e ef).fmem = s.fmem := rfl
@[simp] theorem setHeader_epoch (s : State) (sf : Byte) (o k e : Half) (ef : Byte) : (s.setHeader sf o k e ef).epoch = s.epoch := rfl
@[simp] theorem setHeader_todo (s : State) (sf : Byte) (o k e : Half) (ef : Byte) : (s.setHeader sf o k e ef).todo = s.todo := rfl
@[simp] theorem setHeader_seen (s : State) (sf : Byte) (o k e : Half) (ef : Byte) : (s.setHeader sf o k e ef).seen = s.seen := rfl

/-! ### `advancePacked` -/

@[simp] theorem advancePacked_sflag (s : State) (m : Memory) : (s.advancePacked m).sflag = s.sflag := rfl
@[simp] theorem advancePacked_opc (s : State) (m : Memory) : (s.advancePacked m).opc = s.opc := rfl
@[simp] theorem advancePacked_pkt (s : State) (m : Memory) : (s.advancePacked m).pkt = s.pkt := rfl
@[simp] theorem advancePacked_exp (s : State) (m : Memory) : (s.advancePacked m).exp = s.exp := rfl
@[simp] theorem advancePacked_csum (s : State) (m : Memory) : (s.advancePacked m).csum = s.csum := rfl
@[simp] theorem advancePacked_eflag (s : State) (m : Memory) : (s.advancePacked m).eflag = s.eflag := rfl
@[simp] theorem advancePacked_data (s : State) (m : Memory) : (s.advancePacked m).data = s.data := rfl
@[simp] theorem advancePacked_key (s : State) (m : Memory) : (s.advancePacked m).key = s.key := rfl
@[simp] theorem advancePacked_keyw (s : State) (m : Memory) : (s.advancePacked m).keyw = s.keyw := rfl
@[simp] theorem advancePacked_acc (s : State) (m : Memory) : (s.advancePacked m).acc = s.acc := rfl
@[simp] theorem advancePacked_err (s : State) (m : Memory) : (s.advancePacked m).err = s.err := rfl
@[simp] theorem advancePacked_stkerr (s : State) (m : Memory) : (s.advancePacked m).stkerr = s.stkerr := rfl
@[simp] theorem advancePacked_ctrl (s : State) (m : Memory) : (s.advancePacked m).ctrl = s.ctrl := rfl
@[simp] theorem advancePacked_len (s : State) (m : Memory) : (s.advancePacked m).len = s.len := rfl
@[simp] theorem advancePacked_tlen (s : State) (m : Memory) : (s.advancePacked m).tlen = s.tlen := rfl
@[simp] theorem advancePacked_count (s : State) (m : Memory) : (s.advancePacked m).count = s.count := rfl
@[simp] theorem advancePacked_fidx (s : State) (m : Memory) : (s.advancePacked m).fidx = s.fidx + 1 := rfl
@[simp] theorem advancePacked_maxf (s : State) (m : Memory) : (s.advancePacked m).maxf = s.maxf := rfl
@[simp] theorem advancePacked_nfr (s : State) (m : Memory) : (s.advancePacked m).nfr = s.nfr := rfl
@[simp] theorem advancePacked_rxlen (s : State) (m : Memory) : (s.advancePacked m).rxlen = s.rxlen := rfl
@[simp] theorem advancePacked_outlen (s : State) (m : Memory) : (s.advancePacked m).outlen = s.outlen := rfl
@[simp] theorem advancePacked_opcfg (s : State) (m : Memory) : (s.advancePacked m).opcfg = s.opcfg := rfl
@[simp] theorem advancePacked_pmem (s : State) (m : Memory) : (s.advancePacked m).pmem = s.pmem := rfl
@[simp] theorem advancePacked_fmem (s : State) (m : Memory) : (s.advancePacked m).fmem = m := rfl
@[simp] theorem advancePacked_epoch (s : State) (m : Memory) : (s.advancePacked m).epoch = s.epoch := rfl
@[simp] theorem advancePacked_todo (s : State) (m : Memory) : (s.advancePacked m).todo = s.todo := rfl
@[simp] theorem advancePacked_seen (s : State) (m : Memory) : (s.advancePacked m).seen = s.seen := rfl

/-! ### `startReceive` -/

@[simp] theorem startReceive_sflag (s : State) : s.startReceive.sflag = s.sflag := rfl
@[simp] theorem startReceive_opc (s : State) : s.startReceive.opc = s.opc := rfl
@[simp] theorem startReceive_pkt (s : State) : s.startReceive.pkt = s.pkt := rfl
@[simp] theorem startReceive_exp (s : State) : s.startReceive.exp = s.exp := rfl
@[simp] theorem startReceive_csum (s : State) : s.startReceive.csum = s.csum := rfl
@[simp] theorem startReceive_eflag (s : State) : s.startReceive.eflag = s.eflag := rfl
@[simp] theorem startReceive_data (s : State) : s.startReceive.data = s.data := rfl
@[simp] theorem startReceive_key (s : State) : s.startReceive.key = s.key := rfl
@[simp] theorem startReceive_keyw (s : State) : s.startReceive.keyw = s.keyw := rfl
@[simp] theorem startReceive_acc (s : State) : s.startReceive.acc = s.acc := rfl
@[simp] theorem startReceive_err (s : State) : s.startReceive.err = s.err := rfl
@[simp] theorem startReceive_stkerr (s : State) : s.startReceive.stkerr = s.stkerr := rfl
@[simp] theorem startReceive_ctrl (s : State) : s.startReceive.ctrl = s.ctrl := rfl
@[simp] theorem startReceive_len (s : State) : s.startReceive.len = s.len := rfl
@[simp] theorem startReceive_tlen (s : State) : s.startReceive.tlen = s.tlen := rfl
@[simp] theorem startReceive_count (s : State) : s.startReceive.count = s.count := rfl
@[simp] theorem startReceive_fidx (s : State) : s.startReceive.fidx = 0 := rfl
@[simp] theorem startReceive_maxf (s : State) : s.startReceive.maxf = s.maxf := rfl
@[simp] theorem startReceive_nfr (s : State) : s.startReceive.nfr = s.nfr := rfl
@[simp] theorem startReceive_rxlen (s : State) : s.startReceive.rxlen = s.rxlen := rfl
@[simp] theorem startReceive_outlen (s : State) : s.startReceive.outlen = 0 := rfl
@[simp] theorem startReceive_opcfg (s : State) : s.startReceive.opcfg = s.opcfg := rfl
@[simp] theorem startReceive_pmem (s : State) : s.startReceive.pmem = s.pmem := rfl
@[simp] theorem startReceive_fmem (s : State) : s.startReceive.fmem = s.fmem := rfl
@[simp] theorem startReceive_epoch (s : State) : s.startReceive.epoch = s.epoch := rfl
@[simp] theorem startReceive_todo (s : State) : s.startReceive.todo = s.todo := rfl
@[simp] theorem startReceive_seen (s : State) : s.startReceive.seen = s.seen := rfl

/-! ### `setFields` -/

@[simp] theorem setFields_sflag (s : State) (x : Fields) : (s.setFields x).sflag = x.sflag := rfl
@[simp] theorem setFields_opc (s : State) (x : Fields) : (s.setFields x).opc = x.opc := rfl
@[simp] theorem setFields_pkt (s : State) (x : Fields) : (s.setFields x).pkt = x.pkt := rfl
@[simp] theorem setFields_exp (s : State) (x : Fields) : (s.setFields x).exp = x.exp := rfl
@[simp] theorem setFields_csum (s : State) (x : Fields) : (s.setFields x).csum = x.csum := rfl
@[simp] theorem setFields_eflag (s : State) (x : Fields) : (s.setFields x).eflag = x.eflag := rfl
@[simp] theorem setFields_data (s : State) (x : Fields) : (s.setFields x).data = x.data := rfl
@[simp] theorem setFields_key (s : State) (x : Fields) : (s.setFields x).key = s.key := rfl
@[simp] theorem setFields_keyw (s : State) (x : Fields) : (s.setFields x).keyw = s.keyw := rfl
@[simp] theorem setFields_acc (s : State) (x : Fields) : (s.setFields x).acc = s.acc := rfl
@[simp] theorem setFields_err (s : State) (x : Fields) : (s.setFields x).err = s.err := rfl
@[simp] theorem setFields_stkerr (s : State) (x : Fields) : (s.setFields x).stkerr = s.stkerr := rfl
@[simp] theorem setFields_ctrl (s : State) (x : Fields) : (s.setFields x).ctrl = s.ctrl := rfl
@[simp] theorem setFields_len (s : State) (x : Fields) : (s.setFields x).len = s.len := rfl
@[simp] theorem setFields_tlen (s : State) (x : Fields) : (s.setFields x).tlen = s.tlen := rfl
@[simp] theorem setFields_count (s : State) (x : Fields) : (s.setFields x).count = s.count := rfl
@[simp] theorem setFields_fidx (s : State) (x : Fields) : (s.setFields x).fidx = s.fidx := rfl
@[simp] theorem setFields_maxf (s : State) (x : Fields) : (s.setFields x).maxf = s.maxf := rfl
@[simp] theorem setFields_nfr (s : State) (x : Fields) : (s.setFields x).nfr = s.nfr := rfl
@[simp] theorem setFields_rxlen (s : State) (x : Fields) : (s.setFields x).rxlen = s.rxlen := rfl
@[simp] theorem setFields_outlen (s : State) (x : Fields) : (s.setFields x).outlen = s.outlen := rfl
@[simp] theorem setFields_opcfg (s : State) (x : Fields) : (s.setFields x).opcfg = s.opcfg := rfl
@[simp] theorem setFields_pmem (s : State) (x : Fields) : (s.setFields x).pmem = s.pmem := rfl
@[simp] theorem setFields_fmem (s : State) (x : Fields) : (s.setFields x).fmem = s.fmem := rfl
@[simp] theorem setFields_epoch (s : State) (x : Fields) : (s.setFields x).epoch = s.epoch := rfl
@[simp] theorem setFields_todo (s : State) (x : Fields) : (s.setFields x).todo = s.todo := rfl
@[simp] theorem setFields_seen (s : State) (x : Fields) : (s.setFields x).seen = s.seen := rfl

/-! ### `advanceStored` -/

@[simp] theorem advanceStored_sflag (s : State) (m : Memory) (n : Long) : (s.advanceStored m n).sflag = s.sflag := rfl
@[simp] theorem advanceStored_opc (s : State) (m : Memory) (n : Long) : (s.advanceStored m n).opc = s.opc := rfl
@[simp] theorem advanceStored_pkt (s : State) (m : Memory) (n : Long) : (s.advanceStored m n).pkt = s.pkt := rfl
@[simp] theorem advanceStored_exp (s : State) (m : Memory) (n : Long) : (s.advanceStored m n).exp = s.exp := rfl
@[simp] theorem advanceStored_csum (s : State) (m : Memory) (n : Long) : (s.advanceStored m n).csum = s.csum := rfl
@[simp] theorem advanceStored_eflag (s : State) (m : Memory) (n : Long) : (s.advanceStored m n).eflag = s.eflag := rfl
@[simp] theorem advanceStored_data (s : State) (m : Memory) (n : Long) : (s.advanceStored m n).data = s.data := rfl
@[simp] theorem advanceStored_key (s : State) (m : Memory) (n : Long) : (s.advanceStored m n).key = s.key := rfl
@[simp] theorem advanceStored_keyw (s : State) (m : Memory) (n : Long) : (s.advanceStored m n).keyw = s.keyw := rfl
@[simp] theorem advanceStored_acc (s : State) (m : Memory) (n : Long) : (s.advanceStored m n).acc = s.acc := rfl
@[simp] theorem advanceStored_err (s : State) (m : Memory) (n : Long) : (s.advanceStored m n).err = s.err := rfl
@[simp] theorem advanceStored_stkerr (s : State) (m : Memory) (n : Long) : (s.advanceStored m n).stkerr = s.stkerr := rfl
@[simp] theorem advanceStored_ctrl (s : State) (m : Memory) (n : Long) : (s.advanceStored m n).ctrl = s.ctrl := rfl
@[simp] theorem advanceStored_len (s : State) (m : Memory) (n : Long) : (s.advanceStored m n).len = s.len := rfl
@[simp] theorem advanceStored_tlen (s : State) (m : Memory) (n : Long) : (s.advanceStored m n).tlen = s.tlen := rfl
@[simp] theorem advanceStored_count (s : State) (m : Memory) (n : Long) : (s.advanceStored m n).count = s.count := rfl
@[simp] theorem advanceStored_fidx (s : State) (m : Memory) (n : Long) : (s.advanceStored m n).fidx = s.fidx + 1 := rfl
@[simp] theorem advanceStored_maxf (s : State) (m : Memory) (n : Long) : (s.advanceStored m n).maxf = s.maxf := rfl
@[simp] theorem advanceStored_nfr (s : State) (m : Memory) (n : Long) : (s.advanceStored m n).nfr = s.nfr := rfl
@[simp] theorem advanceStored_rxlen (s : State) (m : Memory) (n : Long) : (s.advanceStored m n).rxlen = s.rxlen := rfl
@[simp] theorem advanceStored_outlen (s : State) (m : Memory) (n : Long) : (s.advanceStored m n).outlen = n := rfl
@[simp] theorem advanceStored_opcfg (s : State) (m : Memory) (n : Long) : (s.advanceStored m n).opcfg = s.opcfg := rfl
@[simp] theorem advanceStored_pmem (s : State) (m : Memory) (n : Long) : (s.advanceStored m n).pmem = m := rfl
@[simp] theorem advanceStored_fmem (s : State) (m : Memory) (n : Long) : (s.advanceStored m n).fmem = s.fmem := rfl
@[simp] theorem advanceStored_epoch (s : State) (m : Memory) (n : Long) : (s.advanceStored m n).epoch = s.epoch := rfl
@[simp] theorem advanceStored_todo (s : State) (m : Memory) (n : Long) : (s.advanceStored m n).todo = s.todo := rfl
@[simp] theorem advanceStored_seen (s : State) (m : Memory) (n : Long) : (s.advanceStored m n).seen = s.seen := rfl

/-! ### `setTodo` -/

@[simp] theorem setTodo_sflag (s : State) (rest : List HostAction) : (s.setTodo rest).sflag = s.sflag := rfl
@[simp] theorem setTodo_opc (s : State) (rest : List HostAction) : (s.setTodo rest).opc = s.opc := rfl
@[simp] theorem setTodo_pkt (s : State) (rest : List HostAction) : (s.setTodo rest).pkt = s.pkt := rfl
@[simp] theorem setTodo_exp (s : State) (rest : List HostAction) : (s.setTodo rest).exp = s.exp := rfl
@[simp] theorem setTodo_csum (s : State) (rest : List HostAction) : (s.setTodo rest).csum = s.csum := rfl
@[simp] theorem setTodo_eflag (s : State) (rest : List HostAction) : (s.setTodo rest).eflag = s.eflag := rfl
@[simp] theorem setTodo_data (s : State) (rest : List HostAction) : (s.setTodo rest).data = s.data := rfl
@[simp] theorem setTodo_key (s : State) (rest : List HostAction) : (s.setTodo rest).key = s.key := rfl
@[simp] theorem setTodo_keyw (s : State) (rest : List HostAction) : (s.setTodo rest).keyw = s.keyw := rfl
@[simp] theorem setTodo_acc (s : State) (rest : List HostAction) : (s.setTodo rest).acc = s.acc := rfl
@[simp] theorem setTodo_err (s : State) (rest : List HostAction) : (s.setTodo rest).err = s.err := rfl
@[simp] theorem setTodo_stkerr (s : State) (rest : List HostAction) : (s.setTodo rest).stkerr = s.stkerr := rfl
@[simp] theorem setTodo_ctrl (s : State) (rest : List HostAction) : (s.setTodo rest).ctrl = s.ctrl := rfl
@[simp] theorem setTodo_len (s : State) (rest : List HostAction) : (s.setTodo rest).len = s.len := rfl
@[simp] theorem setTodo_tlen (s : State) (rest : List HostAction) : (s.setTodo rest).tlen = s.tlen := rfl
@[simp] theorem setTodo_count (s : State) (rest : List HostAction) : (s.setTodo rest).count = s.count := rfl
@[simp] theorem setTodo_fidx (s : State) (rest : List HostAction) : (s.setTodo rest).fidx = s.fidx := rfl
@[simp] theorem setTodo_maxf (s : State) (rest : List HostAction) : (s.setTodo rest).maxf = s.maxf := rfl
@[simp] theorem setTodo_nfr (s : State) (rest : List HostAction) : (s.setTodo rest).nfr = s.nfr := rfl
@[simp] theorem setTodo_rxlen (s : State) (rest : List HostAction) : (s.setTodo rest).rxlen = s.rxlen := rfl
@[simp] theorem setTodo_outlen (s : State) (rest : List HostAction) : (s.setTodo rest).outlen = s.outlen := rfl
@[simp] theorem setTodo_opcfg (s : State) (rest : List HostAction) : (s.setTodo rest).opcfg = s.opcfg := rfl
@[simp] theorem setTodo_pmem (s : State) (rest : List HostAction) : (s.setTodo rest).pmem = s.pmem := rfl
@[simp] theorem setTodo_fmem (s : State) (rest : List HostAction) : (s.setTodo rest).fmem = s.fmem := rfl
@[simp] theorem setTodo_epoch (s : State) (rest : List HostAction) : (s.setTodo rest).epoch = s.epoch := rfl
@[simp] theorem setTodo_todo (s : State) (rest : List HostAction) : (s.setTodo rest).todo = rest := rfl
@[simp] theorem setTodo_seen (s : State) (rest : List HostAction) : (s.setTodo rest).seen = s.seen := rfl

/-! ### `returned` -/

@[simp] theorem returned_sflag (s : State) (v : Nat) : (s.returned v).sflag = s.sflag := rfl
@[simp] theorem returned_opc (s : State) (v : Nat) : (s.returned v).opc = s.opc := rfl
@[simp] theorem returned_pkt (s : State) (v : Nat) : (s.returned v).pkt = s.pkt := rfl
@[simp] theorem returned_exp (s : State) (v : Nat) : (s.returned v).exp = s.exp := rfl
@[simp] theorem returned_csum (s : State) (v : Nat) : (s.returned v).csum = s.csum := rfl
@[simp] theorem returned_eflag (s : State) (v : Nat) : (s.returned v).eflag = s.eflag := rfl
@[simp] theorem returned_data (s : State) (v : Nat) : (s.returned v).data = s.data := rfl
@[simp] theorem returned_key (s : State) (v : Nat) : (s.returned v).key = s.key := rfl
@[simp] theorem returned_keyw (s : State) (v : Nat) : (s.returned v).keyw = s.keyw := rfl
@[simp] theorem returned_acc (s : State) (v : Nat) : (s.returned v).acc = s.acc := rfl
@[simp] theorem returned_err (s : State) (v : Nat) : (s.returned v).err = s.err := rfl
@[simp] theorem returned_stkerr (s : State) (v : Nat) : (s.returned v).stkerr = s.stkerr := rfl
@[simp] theorem returned_ctrl (s : State) (v : Nat) : (s.returned v).ctrl = s.ctrl := rfl
@[simp] theorem returned_len (s : State) (v : Nat) : (s.returned v).len = s.len := rfl
@[simp] theorem returned_tlen (s : State) (v : Nat) : (s.returned v).tlen = s.tlen := rfl
@[simp] theorem returned_count (s : State) (v : Nat) : (s.returned v).count = s.count := rfl
@[simp] theorem returned_fidx (s : State) (v : Nat) : (s.returned v).fidx = s.fidx := rfl
@[simp] theorem returned_maxf (s : State) (v : Nat) : (s.returned v).maxf = s.maxf := rfl
@[simp] theorem returned_nfr (s : State) (v : Nat) : (s.returned v).nfr = s.nfr := rfl
@[simp] theorem returned_rxlen (s : State) (v : Nat) : (s.returned v).rxlen = s.rxlen := rfl
@[simp] theorem returned_outlen (s : State) (v : Nat) : (s.returned v).outlen = s.outlen := rfl
@[simp] theorem returned_opcfg (s : State) (v : Nat) : (s.returned v).opcfg = s.opcfg := rfl
@[simp] theorem returned_pmem (s : State) (v : Nat) : (s.returned v).pmem = s.pmem := rfl
@[simp] theorem returned_fmem (s : State) (v : Nat) : (s.returned v).fmem = s.fmem := rfl
@[simp] theorem returned_epoch (s : State) (v : Nat) : (s.returned v).epoch = s.epoch := rfl
@[simp] theorem returned_todo (s : State) (v : Nat) : (s.returned v).todo = s.todo := rfl
@[simp] theorem returned_seen (s : State) (v : Nat) : (s.returned v).seen = s.seen ++ [v] := rfl

/-! ### The frame the registers hold -/

@[simp] theorem fields_sflag (s : State) : s.fields.sflag = s.sflag := rfl
@[simp] theorem fields_opc (s : State) : s.fields.opc = s.opc := rfl
@[simp] theorem fields_pkt (s : State) : s.fields.pkt = s.pkt := rfl
@[simp] theorem fields_exp (s : State) : s.fields.exp = s.exp := rfl
@[simp] theorem fields_data (s : State) : s.fields.data = s.data := rfl
@[simp] theorem fields_csum (s : State) : s.fields.csum = s.csum := rfl
@[simp] theorem fields_eflag (s : State) : s.fields.eflag = s.eflag := rfl

@[simp] theorem setData_fields (s : State) (d : Block) : (s.setData d).fields = { s.fields with data := d } := rfl
@[simp] theorem setChecksum_fields (s : State) (c : Half) : (s.setChecksum c).fields = { s.fields with csum := c } := rfl
@[simp] theorem setHeader_fields (s : State) (sf : Byte) (o k e : Half) (ef : Byte) :
    (s.setHeader sf o k e ef).fields = { s.fields with sflag := sf, opc := o, pkt := k, exp := e, eflag := ef } := rfl
@[simp] theorem writeBack_fields (r : Result) (s : State) : (writeBack r s).fields = s.fields := rfl
@[simp] theorem setAcc_fields (s : State) (a : Half) : (s.setAcc a).fields = s.fields := rfl
@[simp] theorem advancePacked_fields (s : State) (m : Memory) : (s.advancePacked m).fields = s.fields := rfl
@[simp] theorem advanceStored_fields (s : State) (m : Memory) (n : Long) :
    (s.advanceStored m n).fields = s.fields := rfl
@[simp] theorem startTransmit_fields (s : State) (l : Long) (c : Half) :
    (s.startTransmit l c).fields = s.fields := rfl
@[simp] theorem startReceive_fields (s : State) : s.startReceive.fields = s.fields := rfl
@[simp] theorem setFields_fields (s : State) (x : Fields) : (s.setFields x).fields = x := rfl

end Sys2Proof.Machine
end

