-- ==== Sys2Proof/Laws/Memory.lean ====
section
/-! SUPPORT. The laws of the byte memories: what a read gives after a write, that every write keeps the canonical form and
the range, and that equal memories are equal lists. -/

namespace Sys2Proof.Machine

@[simp] theorem lookup_nil (a : Nat) : Memory.lookup [] a = none := rfl

theorem lookup_cons (c : Host.Cell) (m : Memory) (a : Nat) :
    Memory.lookup (c :: m) a = if c.1 = a then some c.2 else m.lookup a := rfl

/-- Reading after writing one byte: the byte there, and every other address as before. -/
theorem lookup_write (m : Memory) (a : Nat) (b : Byte) (x : Nat) :
    (m.write a b).lookup x = if x = a then some b else m.lookup x := by
  induction m with
  | nil =>
    simp only [Memory.write, lookup_cons, lookup_nil]
    grind
  | cons c m ih =>
    simp only [Memory.write]
    split
    · simp only [lookup_cons]; grind
    · split
      · simp only [lookup_cons]; grind
      · simp only [lookup_cons, ih]; grind

/-- An entry after a write is the written one or was there before. -/
theorem mem_of_mem_write (m : Memory) (a : Nat) (b : Byte) (c : Host.Cell) (h : c ∈ m.write a b) :
    c = (a, b) ∨ c ∈ m := by
  induction m with
  | nil => simpa [Memory.write] using h
  | cons d m ih =>
    simp only [Memory.write] at h
    split at h
    · simpa using h
    · split at h
      · rcases List.mem_cons.1 h with h | h
        · exact .inl h
        · exact .inr (List.mem_cons_of_mem _ h)
      · rcases List.mem_cons.1 h with h | h
        · exact .inr (h ▸ List.mem_cons_self)
        · exact (ih h).imp id (List.mem_cons_of_mem _)

/-- Writing one byte keeps the canonical form. -/
theorem wf_write (m : Memory) (a : Nat) (b : Byte) (h : m.wf) : (m.write a b).wf := by
  induction m with
  | nil => simp [Memory.wf, Memory.write]
  | cons d m ih =>
    obtain ⟨hd, hm⟩ := List.pairwise_cons.1 h
    simp only [Memory.write]
    split
    · rename_i hlt
      refine List.pairwise_cons.2 ⟨fun e he => ?_, h⟩
      rcases List.mem_cons.1 he with rfl | he
      · exact hlt
      · exact lt_trans hlt (hd e he)
    · split
      · rename_i heq
        exact List.pairwise_cons.2 ⟨fun e he => heq ▸ hd e he, hm⟩
      · refine List.pairwise_cons.2 ⟨fun e he => ?_, ih hm⟩
        rcases mem_of_mem_write m a b e he with rfl | he
        · simp only; omega
        · exact hd e he

/-- Reading after writing bytes one by one. -/
theorem lookup_writeBytes (bs : List Byte) (m : Memory) (base x : Nat) :
    (m.writeBytes base bs).lookup x =
      if base ≤ x ∧ x < base + bs.length then bs[x - base]? else m.lookup x := by
  induction bs generalizing m base with
  | nil => simp [Memory.writeBytes]
  | cons b bs ih =>
    simp only [Memory.writeBytes, ih, lookup_write, List.length_cons]
    by_cases hx : x = base
    · subst hx; simp
    · by_cases hr : base + 1 ≤ x ∧ x < base + 1 + bs.length
      · have : x - base = (x - (base + 1)) + 1 := by omega
        rw [if_pos hr, if_pos (by omega), this, List.getElem?_cons_succ]
      · rw [if_neg hr, if_neg hx, if_neg (by omega)]

/-- Writing bytes keeps the canonical form. -/
theorem wf_writeBytes (bs : List Byte) (m : Memory) (base : Nat) (h : m.wf) : (m.writeBytes base bs).wf := by
  induction bs generalizing m base with
  | nil => exact h
  | cons b bs ih => exact ih _ _ (wf_write m base b h)

/-- Writing bytes adds no entry outside the span written. -/
theorem mem_of_mem_writeBytes (bs : List Byte) (m : Memory) (base : Nat) (c : Host.Cell)
    (h : c ∈ m.writeBytes base bs) : (base ≤ c.1 ∧ c.1 < base + bs.length) ∨ c ∈ m := by
  induction bs generalizing m base with
  | nil => exact .inr h
  | cons b bs ih =>
    rcases ih _ _ h with h | h
    · simp only [List.length_cons]; omega
    · rcases mem_of_mem_write m base b c h with rfl | h
      · simp
      · exact .inr h

/-- In the canonical form an address below every listed one is unlisted. -/
theorem lookup_eq_none_of_lt (m : Memory) (a : Nat) (h : ∀ c ∈ m, a < c.1) : m.lookup a = none := by
  induction m with
  | nil => rfl
  | cons c m ih =>
    have := h c List.mem_cons_self
    rw [lookup_cons, if_neg (by omega), ih fun d hd => h d (List.mem_cons_of_mem _ hd)]

/-- Memories in the canonical form that hold the same written bytes are the same list. -/
theorem eq_of_lookup_eq (m n : Memory) (hm : m.wf) (hn : n.wf) (h : ∀ a, m.lookup a = n.lookup a) : m = n := by
  induction m generalizing n with
  | nil =>
    cases n with
    | nil => rfl
    | cons d n => have := h d.1; simp [lookup_cons] at this
  | cons c m ih =>
    obtain ⟨hc, hm'⟩ := List.pairwise_cons.1 hm
    cases n with
    | nil => have := h c.1; simp [lookup_cons] at this
    | cons d n =>
      obtain ⟨hd, hn'⟩ := List.pairwise_cons.1 hn
      have key : c.1 = d.1 := by
        rcases lt_trichotomy c.1 d.1 with hlt | heq | hgt
        · have := h c.1
          rw [lookup_cons, if_pos rfl, lookup_cons, if_neg (by omega),
            lookup_eq_none_of_lt n c.1 fun e he => lt_trans hlt (hd e he)] at this
          cases this
        · exact heq
        · have := h d.1
          rw [lookup_cons, if_neg (by omega), lookup_cons, if_pos rfl,
            lookup_eq_none_of_lt m d.1 fun e he => lt_trans hgt (hc e he)] at this
          cases this
      have val : c.2 = d.2 := by
        have := h c.1
        rw [lookup_cons, if_pos rfl, lookup_cons, if_pos key.symm] at this
        exact Option.some.inj this
      have tail : m = n := by
        refine ih n hm' hn' fun a => ?_
        by_cases ha : c.1 = a
        · subst ha
          rw [lookup_eq_none_of_lt m c.1 hc, lookup_eq_none_of_lt n c.1 fun e he => key ▸ hd e he]
        · have := h a
          rwa [lookup_cons, if_neg ha, lookup_cons, if_neg (key ▸ ha)] at this
      rw [tail, Prod.ext key val]

/-- A byte of `PMEM` after bytes were written there: the byte written, or what was read before. -/
theorem pmemByte_writeBytes (p : Params) (s t : State) (base : Nat) (bs : List Byte) (a : Nat)
    (hm : t.pmem = s.pmem.writeBytes base bs) (he : t.epoch = s.epoch) :
    pmemByte p t a = if h : base ≤ a ∧ a < base + bs.length then bs[a - base]'(by omega) else pmemByte p s a := by
  unfold pmemByte
  rw [hm, he, lookup_writeBytes]
  by_cases h : base ≤ a ∧ a < base + bs.length
  · rw [if_pos h, dif_pos h, List.getElem?_eq_getElem (by omega)]; rfl
  · rw [if_neg h, dif_neg h]

/-- A byte of `FMEM` after bytes were written there: the byte written, or what was read before. -/
theorem fmemByte_writeBytes (p : Params) (s t : State) (base : Nat) (bs : List Byte) (a : Nat)
    (hm : t.fmem = s.fmem.writeBytes base bs) (he : t.epoch = s.epoch) :
    fmemByte p t a = if h : base ≤ a ∧ a < base + bs.length then bs[a - base]'(by omega) else fmemByte p s a := by
  unfold fmemByte
  rw [hm, he, lookup_writeBytes]
  by_cases h : base ≤ a ∧ a < base + bs.length
  · rw [if_pos h, dif_pos h, List.getElem?_eq_getElem (by omega)]; rfl
  · rw [if_neg h, dif_neg h]

/-- Equal written bytes and equal epochs read equal. -/
theorem pmemByte_congr (p : Params) (s t : State) (hm : t.pmem = s.pmem) (he : t.epoch = s.epoch) (a : Nat) :
    pmemByte p t a = pmemByte p s a := by
  unfold pmemByte; rw [hm, he]

/-- Equal written bytes and equal epochs read equal. -/
theorem fmemByte_congr (p : Params) (s t : State) (hm : t.fmem = s.fmem) (he : t.epoch = s.epoch) (a : Nat) :
    fmemByte p t a = fmemByte p s a := by
  unfold fmemByte; rw [hm, he]

end Sys2Proof.Machine
end

