-- ==== Sys2Proof/Laws/Ops.lean ====
section
/-! SUPPORT. What each shared operation can do, said once: how a body goes on and ends, the spans of the memories, the
result codes and the write-back. Later proofs cite these and do not unfold the operations. -/

namespace Sys2Proof.Machine

/-! ### Results and the write-back -/

@[simp] theorem code_ok : Result.ok.code = 0 := rfl

theorem code_eq_zero_iff (r : Result) : r.code = 0 ↔ r = .ok := by
  cases r <;> simp [Result.code]

/-- Two results with the same code are the same result. -/
theorem code_injective (r q : Result) (h : r.code = q.code) : r = q := by
  revert h; cases r <;> cases q <;> decide

/-- The write-back of `OK` overwrites `ERR` only. -/
theorem writeBack_ok (s : State) : writeBack .ok s = { s with err := 0 } := rfl

/-- The write-back of an error: `ERR` takes the code, `STKERR` too unless it holds an earlier one. -/
theorem writeBack_of_ne_ok (r : Result) (s : State) (h : r ≠ .ok) :
    writeBack r s = { s with err := r.code, stkerr := if s.stkerr = 0 then r.code else s.stkerr } := by
  have : r.code ≠ 0 := fun hc => h ((code_eq_zero_iff r).1 hc)
  simp only [writeBack, this, ne_eq, not_false_eq_true, true_and]

/-- `KEYV` depends on the written flags only (10_state.md R23). -/
theorem keyValid_congr (s t : State) (h : t.keyw = s.keyw) : keyValid t = keyValid s := by
  unfold keyValid; rw [h]

@[simp] theorem keyValid_writeBack (r : Result) (s : State) : keyValid (writeBack r s) = keyValid s := keyValid_congr s _ rfl
@[simp] theorem keyValid_setAcc (s : State) (a : Half) : keyValid (s.setAcc a) = keyValid s := keyValid_congr s _ rfl
@[simp] theorem keyValid_setChecksum (s : State) (c : Half) : keyValid (s.setChecksum c) = keyValid s := keyValid_congr s _ rfl
@[simp] theorem keyValid_setData (s : State) (d : Block) : keyValid (s.setData d) = keyValid s := keyValid_congr s _ rfl
@[simp] theorem keyValid_startTransmit (s : State) (l : Long) (c : Half) : keyValid (s.startTransmit l c) = keyValid s := keyValid_congr s _ rfl
@[simp] theorem keyValid_setHeader (s : State) (sf : Byte) (o k e : Half) (ef : Byte) : keyValid (s.setHeader sf o k e ef) = keyValid s := keyValid_congr s _ rfl
@[simp] theorem keyValid_advancePacked (s : State) (m : Memory) : keyValid (s.advancePacked m) = keyValid s := keyValid_congr s _ rfl
@[simp] theorem keyValid_startReceive (s : State) : keyValid (s.startReceive) = keyValid s := keyValid_congr s _ rfl
@[simp] theorem keyValid_setFields (s : State) (x : Fields) : keyValid (s.setFields x) = keyValid s := keyValid_congr s _ rfl
@[simp] theorem keyValid_advanceStored (s : State) (m : Memory) (n : Long) : keyValid (s.advanceStored m n) = keyValid s := keyValid_congr s _ rfl

/-! ### How a body ends -/

/-- A command answers a next state exactly when its body ended, and then that state is the write-back. -/
theorem finish_eq_next (x : Ran) (t : State) :
    finish x = .next t ↔ ∃ s r, x = .ended s r ∧ t = writeBack r s := by
  cases x with
  | ended s r => simp only [finish, Host.Outcome.next.injEq, Ran.ended.injEq]; grind
  | faulted f => simp [finish]

/-- A command faults exactly when its body did. -/
theorem finish_eq_fault (x : Ran) (f : Fault) : finish x = .fault f ↔ x = .faulted f := by
  cases x <;> simp [finish]

/-- No command is refused. -/
theorem finish_ne_refused (x : Ran) (q : Refusal) : finish x ≠ .refused q := by
  cases x <;> simp [finish]

@[simp] theorem finish_ended (s : State) (r : Result) : finish (.ended s r) = .next (writeBack r s) := rfl

@[simp] theorem raise_eq (r : Result) (s : State) : raise r s = .ended s r := rfl

@[simp] theorem done_eq (s : State) : done s = .ended s .ok := rfl

@[simp] theorem andThen_ok (s : State) (k : State → Ran) : (Ran.ended s .ok).andThen k = k s := rfl

theorem andThen_of_ne_ok (s : State) (r : Result) (k : State → Ran) (h : r ≠ .ok) :
    (Ran.ended s r).andThen k = .ended s r := by
  cases r <;> first | exact absurd rfl h | rfl

@[simp] theorem andThen_faulted (f : Fault) (k : State → Ran) : (Ran.faulted f).andThen k = .faulted f := rfl

/-- Two bodies in sequence end in one of two ways: the first raised, or the second ended so. -/
theorem andThen_eq_ended (x : Ran) (k : State → Ran) (t : State) (r : Result) :
    x.andThen k = .ended t r ↔ (r ≠ .ok ∧ x = .ended t r) ∨ ∃ s, x = .ended s .ok ∧ k s = .ended t r := by
  cases x with
  | ended s q =>
    by_cases hq : q = .ok
    · subst hq; simp only [andThen_ok, Ran.ended.injEq]; grind
    · rw [andThen_of_ne_ok s q k hq]; simp only [Ran.ended.injEq]; grind
  | faulted f => simp

/-- Two bodies in sequence fault when the first does, or the second after the first ended with `OK`. -/
theorem andThen_eq_faulted (x : Ran) (k : State → Ran) (f : Fault) :
    x.andThen k = .faulted f ↔ x = .faulted f ∨ ∃ s, x = .ended s .ok ∧ k s = .faulted f := by
  cases x with
  | ended s q =>
    by_cases hq : q = .ok
    · subst hq; simp
    · rw [andThen_of_ne_ok s q k hq]; simp [hq]
  | faulted g => simp

/-! ### Spans of the memories -/

theorem spanOk_iff (size base n : Nat) : spanOk size base n = true ↔ n = 0 ∨ base + n ≤ size := by
  simp [spanOk]

/-- Going on with a span of `PMEM` ends as the rest does, and the span exists. -/
theorem withPmemSpan_eq_ended (p : Params) (base n : Nat) (x : Ran) (t : State) (r : Result) :
    withPmemSpan p base n x = .ended t r ↔ spanOk p.pmemSize base n = true ∧ x = .ended t r := by
  unfold withPmemSpan; split <;> simp [*]

/-- Going on with a span of `FMEM` ends as the rest does, and the span exists. -/
theorem withFmemSpan_eq_ended (p : Params) (base n : Nat) (x : Ran) (t : State) (r : Result) :
    withFmemSpan p base n x = .ended t r ↔ spanOk p.fmemSize base n = true ∧ x = .ended t r := by
  unfold withFmemSpan; split <;> simp [*]

theorem withPmemSpan_of_ok (p : Params) (base n : Nat) (x : Ran) (h : n = 0 ∨ base + n ≤ p.pmemSize) :
    withPmemSpan p base n x = x := by
  simp [withPmemSpan, spanOk, h]

theorem withFmemSpan_of_ok (p : Params) (base n : Nat) (x : Ran) (h : n = 0 ∨ base + n ≤ p.fmemSize) :
    withFmemSpan p base n x = x := by
  simp [withFmemSpan, spanOk, h]

/-- The sizes of the memories and the bound of the slots (00_scope.md R5). -/
theorem nslot_pos (p : Params) : 1 ≤ p.nslot := by simp [Params.nslot]

theorem nslot_le (p : Params) : p.nslot ≤ 65535 := by
  have := p.lastSlot.isLt; simp only [Params.nslot]; omega

theorem pmemSize_eq (p : Params) : p.pmemSize = p.nslot * 22 := by simp only [Params.pmemSize]

theorem fmemSize_eq (p : Params) : p.fmemSize = p.nslot * 32 := by simp only [Params.fmemSize]

/-- The slot below `NSLOT` lies in `FMEM` (20_memory.md R66). -/
theorem slot_in_fmem (p : Params) (i : Nat) (h : i < p.nslot) : slotBase i + frameSize ≤ p.fmemSize := by
  have := nslot_le p
  simp only [slotBase, frameSize, fmemSize_eq]; omega

/-- The chunk below `NSLOT` lies in `PMEM` (20_memory.md R67). -/
theorem chunk_in_pmem (p : Params) (i n : Nat) (h : i < p.nslot) (hn : n ≤ 22) : chunkBase i + n ≤ p.pmemSize := by
  simp only [chunkBase, cap, pmemSize_eq]; omega

theorem readSlot_getElem (p : Params) (s : State) (i o : Nat) (h : o < 32) :
    (readSlot p s i)[o] = fmemByte p s (32 * i + o) := by
  simp [readSlot, slotBase, frameSize]

end Sys2Proof.Machine
end

