-- ==== Sys2Proof/Laws/Wire.lean ====
section
/-! SUPPORT. The wire layout by offset (20_memory.md R62) and the arithmetic of counts and lengths (41_formatter.md R121,
R122, 42_deformatter.md R151 to R153). -/

namespace Sys2Proof.Machine

/-- The two bytes of a 2-byte field give the field back. -/
theorem dec16_enc16 (v : Half) : dec16 (v.extractLsb' 8 8) (v.extractLsb' 0 8) = v := by
  unfold dec16; ext i hi; simp; grind

/-- The byte at the lower offset is the high byte (20_memory.md R61). -/
@[simp] theorem dec16_high (a b : Byte) : (dec16 a b).extractLsb' 8 8 = a := by
  unfold dec16; ext i hi; grind

/-- The byte at the higher offset is the low byte (20_memory.md R61). -/
@[simp] theorem dec16_low (a b : Byte) : (dec16 a b).extractLsb' 0 8 = b := by
  unfold dec16; ext i hi; grind

theorem headerBytes_length (sf : Byte) (o k e : Half) : (headerBytes sf o k e).length = 7 := by
  simp [headerBytes, enc16]

/-- The bytes of a packed frame, as a list. -/
theorem pack_toList (x : Fields) : (pack x).toList = wireBytes x := by
  simp [pack]

/-- The wire bytes by part: the header (offsets 0 to 6), the data field (7 to 28), the checksum and the end flag. -/
theorem wireBytes_eq (x : Fields) : wireBytes x =
    [x.sflag, x.opc.extractLsb' 8 8, x.opc.extractLsb' 0 8, x.pkt.extractLsb' 8 8, x.pkt.extractLsb' 0 8,
      x.exp.extractLsb' 8 8, x.exp.extractLsb' 0 8] ++ x.data.toList ++
    [x.csum.extractLsb' 8 8, x.csum.extractLsb' 0 8, x.eflag] := by
  simp [wireBytes, headerBytes, enc16]

/-- Byte `o` of a packed frame is wire byte `o`. -/
theorem pack_getElem (x : Fields) (o : Nat) (h : o < 32) :
    (pack x)[o] = (wireBytes x)[o]'(by rw [wireBytes_length]; exact h) := by
  simp [pack]

/-- Frame offsets 7 to 28 hold the data field (20_memory.md R62). -/
theorem pack_data (x : Fields) (j : Nat) (h : j < 22) : (pack x)[7 + j] = x.data[j] := by
  rw [pack_getElem]
  simp only [wireBytes_eq]
  rw [List.getElem_append_left (by simp; omega), List.getElem_append_right (by simp)]
  simp

/-- Frame offsets 29 to 31 hold the checksum and the end flag (20_memory.md R62). -/
theorem pack_tail (x : Fields) : (pack x)[29] = x.csum.extractLsb' 8 8 ∧ (pack x)[30] = x.csum.extractLsb' 0 8 ∧
    (pack x)[31] = x.eflag := by
  refine ⟨?_, ?_, ?_⟩ <;>
  · rw [pack_getElem]
    simp only [wireBytes_eq]
    rw [List.getElem_append_right (by simp)]
    simp

/-- Frame offsets 0 to 6 hold the header (20_memory.md R62, R63). -/
theorem pack_header (x : Fields) (o : Nat) (h : o < 7) :
    (pack x)[o] = (headerBytes x.sflag x.opc x.pkt x.exp)[o]'(by rw [headerBytes_length]; exact h) := by
  rw [pack_getElem]
  simp only [wireBytes]
  rw [List.getElem_append_left (by simp [headerBytes, enc16]; omega),
    List.getElem_append_left (by simp [headerBytes, enc16]; omega),
    List.getElem_append_left (by simp [headerBytes, enc16]; omega)]

/-- The header bytes of an unpacked frame are the frame's own offsets 0 to 6 (20_memory.md R63, R65). -/
theorem headerBytes_unpack (f : Frame) :
    headerBytes (unpack f).sflag (unpack f).opc (unpack f).pkt (unpack f).exp =
      [f[0], f[1], f[2], f[3], f[4], f[5], f[6]] := by
  simp [headerBytes, enc16, unpack]

theorem frameCount_eq (len : Nat) : frameCount len = (len + 21) / 22 := by unfold frameCount cap; omega

@[simp] theorem frameCount_zero : frameCount 0 = 0 := rfl

/-- The count bounds the length from both sides. -/
theorem frameCount_bounds (len : Nat) : len ≤ 22 * frameCount len ∧ 22 * frameCount len < len + 22 := by
  rw [frameCount_eq]; omega

/-- A frame of the sequence has real bytes before it, and from 1 to 22 of its own. -/
theorem chunkLen_bounds (len i : Nat) (h : i < frameCount len) :
    1 ≤ chunkLen len i ∧ chunkLen len i ≤ 22 ∧ 22 * i + chunkLen len i ≤ len := by
  rw [frameCount_eq] at h; simp only [chunkLen, cap]; omega

/-- Every chunk but the last is full. -/
theorem chunkLen_of_not_last (len i : Nat) (h : i + 1 < frameCount len) : chunkLen len i = 22 := by
  rw [frameCount_eq] at h; simp only [chunkLen, cap]; omega

/-- The last chunk ends where the payload ends. -/
theorem chunkLen_last (len i : Nat) (h : i + 1 = frameCount len) : 22 * i + chunkLen len i = len := by
  rw [frameCount_eq] at h; simp only [chunkLen, cap]; omega

theorem zscan_le (d : Block) : zscan d ≤ 22 := by
  have := List.findIdx_le_length (p := fun b : Byte => b == 0) (xs := d.toList)
  simpa [zscan] using this

theorem lenOk_zscan (n : Nat) (v : Bool) (r : Nat) : lenOk n .zscan v r = true := rfl

theorem lenOk_explicit (n : Nat) (v : Bool) (r : Nat) :
    lenOk n .explicit v r = true ↔ v = true ∧ frameCount r = n := by
  simp [lenOk]

/-- Where `len_ok` holds, no frame has more real bytes than its data field (42_deformatter.md R152). -/
theorem realLen_le (i n : Nat) (mode : LenMode) (v : Bool) (r : Nat) (d : Block) (h : lenOk n mode v r = true) :
    realLen i n mode r d ≤ 22 := by
  unfold realLen
  split
  · exact le_rfl
  · cases mode with
    | zscan => exact zscan_le d
    | explicit =>
      obtain ⟨-, hc⟩ := (lenOk_explicit n v r).1 h
      rw [frameCount_eq] at hc
      simp only [cap]; omega

end Sys2Proof.Machine
end

