-- ==== Sys2Proof/Laws/Deformatter.lean ====
section
/-! SUPPORT. What each body of the receive path can do, said once: if it ends, then one of these cases holds. -/

namespace Sys2Proof.Machine

/-- `DFM.BEGIN` can determine the last frame's length, or raises (42_deformatter.md R154). -/
theorem dfmBegin_cases (s t : State) (r : Result) (h : dfmBegin s = .ended t r) :
    t = s.startReceive ∧
    ((r = .ok ∧ lenOk s.nfr.toNat (lenMode s) (lenValid s.ctrl) s.rxlen.toNat = true) ∨
     (r = .truncationAmbiguous ∧ lenOk s.nfr.toNat (lenMode s) (lenValid s.ctrl) s.rxlen.toNat = false)) := by
  unfold dfmBegin at h; grind [raise_eq, done_eq]

/-- `DFM.UNPACK` has a frame to read, or raises (42_deformatter.md R155). -/
theorem dfmUnpack_cases (p : Params) (s t : State) (r : Result) (h : dfmUnpack p s = .ended t r) :
    (r = .opRange ∧ s.nfr.toNat ≤ s.fidx.toNat ∧ t = s) ∨
    (r = .ok ∧ s.fidx.toNat < s.nfr.toNat ∧ t = s.setFields (unpack (readSlot p s s.fidx.toNat))) := by
  unfold dfmUnpack at h; grind [raise_eq, done_eq, withFmemSpan_eq_ended]

/-- `DFM.CHECK` leaves the recomputed checksum in `ACC`, whatever it finds (42_deformatter.md R156). -/
theorem dfmCheck_cases (s t : State) (r : Result) (h : dfmCheck s = .ended t r) :
    t = s.setAcc s.headerChecksum ∧
    ((r = .checksumMismatch ∧ s.headerChecksum ≠ s.csum) ∨
     (r = .sequenceIncomplete ∧ s.headerChecksum = s.csum ∧ s.exp ≠ s.nfr) ∨
     (r = .ok ∧ s.headerChecksum = s.csum ∧ s.exp = s.nfr)) := by
  unfold dfmCheck at h; grind [raise_eq, done_eq]

/-- A frame that passes `DFM.CHECK` has the checksum and the expected count it should have (42_deformatter.md R156). -/
theorem dfmCheck_ok (s t : State) (h : dfmCheck s = .ended t .ok) :
    s.headerChecksum = s.csum ∧ s.exp = s.nfr := by
  obtain ⟨-, ⟨hc, -⟩ | ⟨hc, -⟩ | ⟨-, hx⟩⟩ := dfmCheck_cases s t .ok h
  · cases hc
  · cases hc
  · exact hx

/-- `DFM.CHECK` never faults. -/
theorem dfmCheck_ends (s : State) : ∃ r, dfmCheck s = .ended (s.setAcc s.headerChecksum) r := by
  unfold dfmCheck; split
  · exact ⟨_, rfl⟩
  · split <;> exact ⟨_, rfl⟩

/-- `DFM.DEC` has a key, or raises (42_deformatter.md R157). -/
theorem dfmDec_cases (p : Params) (s t : State) (r : Result) (h : dfmDec p s = .ended t r) :
    (r = .noKey ∧ keyValid s = false ∧ t = s) ∨
    (r = .ok ∧ keyValid s = true ∧ t = s.setData (p.dec s.key s.data)) := by
  unfold dfmDec at h; grind [raise_eq, done_eq]

/-- How many bytes `DFM.STORE` stores: `real_len`, where there is a frame and its length can be determined
(42_deformatter.md R158). -/
theorem storeCount_ok (s : State) (n : Nat) (h : storeCount s = .ok n) :
    s.fidx.toNat < s.nfr.toNat ∧ n = realLen s.fidx.toNat s.nfr.toNat (lenMode s) s.rxlen.toNat s.data ∧
    (s.fidx.toNat < s.nfr.toNat - 1 ∨ lenOk s.nfr.toNat (lenMode s) (lenValid s.ctrl) s.rxlen.toNat = true) := by
  unfold storeCount at h
  split at h
  · cases h
  split at h
  · rename_i h1 h2
    cases h
    exact ⟨by omega, by simp [realLen, h2], .inl h2⟩
  · rename_i h1 h2
    cases hm : lenMode s with
    | zscan =>
      simp only [hm, Except.ok.injEq] at h
      exact ⟨by omega, by simp [realLen, h2, h], .inr rfl⟩
    | explicit =>
      simp only [hm] at h
      split at h
      · rename_i h3
        cases h
        exact ⟨by omega, by simp [realLen, h2], .inr h3⟩
      · cases h

/-- `DFM.STORE` stores at most a data field (42_deformatter.md R158). -/
theorem storeCount_le (s : State) (n : Nat) (h : storeCount s = .ok n) : n ≤ 22 := by
  obtain ⟨-, rfl, hl | hl⟩ := storeCount_ok s n h
  · simp [realLen, hl]
  · exact realLen_le _ _ _ _ _ _ hl

/-- Why `DFM.STORE` raises (42_deformatter.md R158). -/
theorem storeCount_error (s : State) (e : Result) (h : storeCount s = .error e) :
    (e = .opRange ∧ s.nfr.toNat ≤ s.fidx.toNat) ∨
    (e = .truncationAmbiguous ∧ s.fidx.toNat + 1 = s.nfr.toNat ∧ lenMode s = .explicit ∧
      lenOk s.nfr.toNat .explicit (lenValid s.ctrl) s.rxlen.toNat = false) := by
  unfold storeCount at h
  split at h
  · cases h; exact .inl ⟨rfl, by assumption⟩
  split at h
  · cases h
  · cases hm : lenMode s with
    | zscan => simp [hm] at h
    | explicit =>
      simp only [hm] at h
      split at h
      · cases h
      · rename_i h1 h2 h3
        cases h
        exact .inr ⟨rfl, by omega, rfl, by simpa using h3⟩

/-- `DFM.STORE` stores the real bytes at payload offset `CAP*FIDX`, or raises and writes nothing (42_deformatter.md
R158). -/
theorem dfmStore_cases (p : Params) (s t : State) (r : Result) (h : dfmStore p s = .ended t r) :
    (r ≠ .ok ∧ storeCount s = .error r ∧ t = s) ∨
    (∃ n, r = .ok ∧ storeCount s = .ok n ∧ spanOk p.pmemSize (chunkBase s.fidx.toNat) n = true ∧
      t = s.advanceStored (s.pmem.writeBytes (chunkBase s.fidx.toNat) (s.data.toList.take n))
        (BitVec.ofNat 32 (chunkBase s.fidx.toNat + n))) := by
  unfold dfmStore at h
  split at h
  · rename_i e he
    simp only [raise_eq, Ran.ended.injEq] at h
    obtain ⟨rfl, rfl⟩ := h
    refine .inl ⟨?_, he, rfl⟩
    rcases storeCount_error s e he with ⟨rfl, -⟩ | ⟨rfl, -⟩ <;> decide
  · rename_i n hn
    obtain ⟨hs, hx⟩ := (withPmemSpan_eq_ended _ _ _ _ _ _).1 h
    simp only [done_eq, Ran.ended.injEq] at hx
    exact .inr ⟨n, hx.2.symm, hn, hs, hx.1.symm⟩

/-- One turn of `DEFRAG` on a frame of the sequence, up to the point where it raised or to its end (42_deformatter.md
R159). -/
theorem defragFrame_cases (p : Params) (s t : State) (r : Result) (hf : s.fidx.toNat < s.nfr.toNat)
    (h : defragFrame p s = .ended t r) :
    ∃ a c, a = s.setFields (unpack (readSlot p s s.fidx.toNat)) ∧ c = a.setAcc a.headerChecksum ∧
      ((t = c ∧ ((r = .checksumMismatch ∧ a.headerChecksum ≠ a.csum) ∨
          (r = .sequenceIncomplete ∧ a.headerChecksum = a.csum ∧ a.exp ≠ a.nfr) ∨
          (r = .noKey ∧ a.headerChecksum = a.csum ∧ a.exp = a.nfr ∧ keyValid s = false))) ∨
       (a.headerChecksum = a.csum ∧ a.exp = a.nfr ∧ keyValid s = true ∧
          dfmStore p (c.setData (p.dec c.key c.data)) = .ended t r)) := by
  refine ⟨_, _, rfl, rfl, ?_⟩
  unfold defragFrame at h
  rcases (andThen_eq_ended _ _ _ _).1 h with ⟨hr, h1⟩ | ⟨a, h1, h⟩
  · rcases dfmUnpack_cases p s t r h1 with ⟨-, hle, -⟩ | ⟨hok, -, -⟩
    · omega
    · exact absurd hok hr
  rcases dfmUnpack_cases p s a .ok h1 with ⟨hc, -, -⟩ | ⟨-, -, rfl⟩
  · cases hc
  rcases (andThen_eq_ended _ _ _ _).1 h with ⟨hr, h2⟩ | ⟨c, h2, h⟩
  · obtain ⟨ht, hx⟩ := dfmCheck_cases _ t r h2
    refine .inl ⟨ht, ?_⟩
    rcases hx with hx | hx | hx
    · exact .inl hx
    · exact .inr (.inl hx)
    · exact absurd hx.1 hr
  obtain ⟨hsum, hexp⟩ := dfmCheck_ok _ c h2
  obtain ⟨rfl, -⟩ := dfmCheck_cases _ c .ok h2
  rcases (andThen_eq_ended _ _ _ _).1 h with ⟨hr, h3⟩ | ⟨d, h3, h⟩
  · rcases dfmDec_cases p _ t r h3 with ⟨hr', hk, ht⟩ | ⟨hok, -, -⟩
    · simp only [keyValid_setAcc, keyValid_setFields] at hk
      exact .inl ⟨ht, .inr (.inr ⟨hr', hsum, hexp, hk⟩)⟩
    · exact absurd hok hr
  rcases dfmDec_cases p _ d .ok h3 with ⟨hc, -, -⟩ | ⟨-, hk, rfl⟩
  · cases hc
  simp only [keyValid_setAcc, keyValid_setFields] at hk
  exact .inr ⟨hsum, hexp, hk, h⟩

/-- What every turn keeps, the loop of `DEFRAG` keeps. -/
theorem defragLoop_keeps (p : Params) (P : State → Prop)
    (hturn : ∀ s t r, P s → s.fidx.toNat < s.nfr.toNat → defragFrame p s = .ended t r → P t)
    (n : Nat) (s t : State) (r : Result) (hs : P s) (h : defragLoop p n s = .ended t r) : P t := by
  induction n generalizing s with
  | zero => simp only [defragLoop, done_eq, Ran.ended.injEq] at h; exact h.1 ▸ hs
  | succ n ih =>
    unfold defragLoop at h
    split at h
    · rename_i hlt
      rcases (andThen_eq_ended _ _ _ _).1 h with ⟨-, h1⟩ | ⟨a, h1, h2⟩
      · exact hturn s t r hs hlt h1
      · exact ih a (hturn s a .ok hs hlt h1) h2
    · simp only [done_eq, Ran.ended.injEq] at h; exact h.1 ▸ hs

/-- What `DFM.BEGIN` and every turn keep, `DEFRAG` keeps. -/
theorem defrag_keeps (p : Params) (P : State → Prop)
    (hbegin : ∀ s t r, P s → dfmBegin s = .ended t r → P t)
    (hturn : ∀ s t r, P s → s.fidx.toNat < s.nfr.toNat → defragFrame p s = .ended t r → P t)
    (s t : State) (r : Result) (hs : P s) (h : defrag p s = .ended t r) : P t := by
  rcases (andThen_eq_ended _ _ _ _).1 h with ⟨-, h1⟩ | ⟨a, h1, h2⟩
  · exact hbegin s t r hs h1
  · exact defragLoop_keeps p P hturn _ a t r (hbegin s a .ok hs h1) h2

end Sys2Proof.Machine
end

