-- ==== Sys2Proof/Laws/Formatter.lean ====
section
/-! SUPPORT. What each body of the transmit path can do, said once: if it ends, then one of these cases holds. -/

namespace Sys2Proof.Machine

/-- `FMT.BEGIN` accepts the length or refuses it (41_formatter.md R123). -/
theorem fmtBegin_cases (s t : State) (r : Result) (h : fmtBegin s = .ended t r) :
    (r = .capacityExceeded ∧ s.maxf.toNat < frameCount s.len.toNat ∧ t = s.startTransmit 0 0) ∨
    (r = .ok ∧ frameCount s.len.toNat ≤ s.maxf.toNat ∧
      t = s.startTransmit s.len (BitVec.ofNat 16 (frameCount s.len.toNat))) := by
  unfold fmtBegin at h; grind [raise_eq, done_eq]

/-- `FMT.BEGIN` never faults. -/
theorem fmtBegin_ends (s : State) : ∃ t r, fmtBegin s = .ended t r := by
  unfold fmtBegin; split <;> exact ⟨_, _, rfl⟩

/-- `FMT.HDR` has a frame to work on, or raises (41_formatter.md R124). -/
theorem fmtHdr_cases (p : Params) (s t : State) (r : Result) (h : fmtHdr p s = .ended t r) :
    (r = .opRange ∧ s.count.toNat ≤ s.fidx.toNat ∧ t = s) ∨
    (r = .ok ∧ s.fidx.toNat < s.count.toNat ∧
      t = s.setHeader p.startFlag s.opcfg (s.count - s.fidx) s.count p.endFlag) := by
  unfold fmtHdr at h; grind [raise_eq, done_eq]

/-- `FMT.LOAD` has a frame to work on, or raises (41_formatter.md R125). -/
theorem fmtLoad_cases (p : Params) (s t : State) (r : Result) (h : fmtLoad p s = .ended t r) :
    (r = .opRange ∧ s.count.toNat ≤ s.fidx.toNat ∧ t = s) ∨
    (r = .ok ∧ s.fidx.toNat < s.count.toNat ∧ t = s.setData (loadedBlock p s)) := by
  unfold fmtLoad at h; grind [raise_eq, done_eq, withPmemSpan_eq_ended]

/-- `FMT.ENC` has a key, or raises (41_formatter.md R126). -/
theorem fmtEnc_cases (p : Params) (s t : State) (r : Result) (h : fmtEnc p s = .ended t r) :
    (r = .noKey ∧ keyValid s = false ∧ t = s) ∨
    (r = .ok ∧ keyValid s = true ∧ t = s.setData (p.enc s.key s.data)) := by
  unfold fmtEnc at h; grind [raise_eq, done_eq]

/-- `FMT.CSUM` always ends with `OK` (41_formatter.md R127). -/
theorem fmtCsum_eq (s : State) : fmtCsum s = .ended (s.setChecksum s.headerChecksum) .ok := rfl

/-- `FMT.PACK` has a frame to work on, or raises (41_formatter.md R128). -/
theorem fmtPack_cases (p : Params) (s t : State) (r : Result) (h : fmtPack p s = .ended t r) :
    (r = .opRange ∧ s.count.toNat ≤ s.fidx.toNat ∧ t = s) ∨
    (r = .ok ∧ s.fidx.toNat < s.count.toNat ∧ slotBase s.fidx.toNat + frameSize ≤ p.fmemSize ∧
      t = s.advancePacked (s.fmem.writeBytes (slotBase s.fidx.toNat) (pack s.fields).toList)) := by
  unfold fmtPack at h
  grind [raise_eq, done_eq, withFmemSpan_eq_ended, spanOk_iff]

/-- The state after one whole turn of `FRAG` that raises nothing. -/
def fragTurn (p : Params) (s : State) : State :=
  let a := s.setHeader p.startFlag s.opcfg (s.count - s.fidx) s.count p.endFlag
  let b := a.setData (loadedBlock p a)
  let c := b.setData (p.enc b.key b.data)
  let d := c.setChecksum c.headerChecksum
  d.advancePacked (d.fmem.writeBytes (slotBase d.fidx.toNat) (pack d.fields).toList)

/-- One turn of `FRAG` on a frame of the sequence ends in one of two ways: the cipher had no key, after the header and
the plain data field were set, or the frame is in its slot (41_formatter.md R129). -/
theorem fragFrame_cases (p : Params) (s t : State) (r : Result) (hf : s.fidx.toNat < s.count.toNat)
    (h : fragFrame p s = .ended t r) :
    (r = .noKey ∧ keyValid s = false ∧
      t = (s.setHeader p.startFlag s.opcfg (s.count - s.fidx) s.count p.endFlag).setData (loadedBlock p s)) ∨
    (r = .ok ∧ keyValid s = true ∧ slotBase s.fidx.toNat + frameSize ≤ p.fmemSize ∧ t = fragTurn p s) := by
  unfold fragFrame at h
  rcases (andThen_eq_ended _ _ _ _).1 h with ⟨hr, h1⟩ | ⟨a, h1, h⟩
  · rcases fmtHdr_cases p s t r h1 with ⟨-, hle, -⟩ | ⟨hok, -, -⟩
    · omega
    · exact absurd hok hr
  rcases fmtHdr_cases p s a .ok h1 with ⟨hc, -, -⟩ | ⟨-, -, rfl⟩
  · cases hc
  rcases (andThen_eq_ended _ _ _ _).1 h with ⟨hr, h2⟩ | ⟨b, h2, h⟩
  · rcases fmtLoad_cases p _ t r h2 with ⟨-, hle, -⟩ | ⟨hok, -, -⟩
    · simp at hle; omega
    · exact absurd hok hr
  rcases fmtLoad_cases p _ b .ok h2 with ⟨hc, -, -⟩ | ⟨-, -, rfl⟩
  · cases hc
  rcases (andThen_eq_ended _ _ _ _).1 h with ⟨hr, h3⟩ | ⟨c, h3, h⟩
  · rcases fmtEnc_cases p _ t r h3 with ⟨hr', hk, ht⟩ | ⟨hok, -, -⟩
    · exact .inl ⟨hr', hk, ht⟩
    · exact absurd hok hr
  rcases fmtEnc_cases p _ c .ok h3 with ⟨hc, -, -⟩ | ⟨-, hk, rfl⟩
  · cases hc
  rw [fmtCsum_eq] at h
  rcases fmtPack_cases p _ t r h with ⟨-, hle, -⟩ | ⟨hok, -, hs, ht⟩
  · simp at hle; omega
  · exact .inr ⟨hok, hk, hs, ht⟩

/-- What every turn keeps, the loop of `FRAG` keeps. -/
theorem fragLoop_keeps (p : Params) (P : State → Prop)
    (hturn : ∀ s t r, P s → s.fidx.toNat < s.count.toNat → fragFrame p s = .ended t r → P t)
    (n : Nat) (s t : State) (r : Result) (hs : P s) (h : fragLoop p n s = .ended t r) : P t := by
  induction n generalizing s with
  | zero => simp only [fragLoop, done_eq, Ran.ended.injEq] at h; exact h.1 ▸ hs
  | succ n ih =>
    unfold fragLoop at h
    split at h
    · rename_i hlt
      rcases (andThen_eq_ended _ _ _ _).1 h with ⟨-, h1⟩ | ⟨a, h1, h2⟩
      · exact hturn s t r hs hlt h1
      · exact ih a (hturn s a .ok hs hlt h1) h2
    · simp only [done_eq, Ran.ended.injEq] at h; exact h.1 ▸ hs

/-- What `FMT.BEGIN` and every turn keep, `FRAG` keeps. -/
theorem frag_keeps (p : Params) (P : State → Prop)
    (hbegin : ∀ s t r, P s → fmtBegin s = .ended t r → P t)
    (hturn : ∀ s t r, P s → s.fidx.toNat < s.count.toNat → fragFrame p s = .ended t r → P t)
    (s t : State) (r : Result) (hs : P s) (h : frag p s = .ended t r) : P t := by
  rcases (andThen_eq_ended _ _ _ _).1 h with ⟨-, h1⟩ | ⟨a, h1, h2⟩
  · exact hbegin s t r hs h1
  · exact fragLoop_keeps p P hturn _ a t r (hbegin s a .ok hs h1) h2

end Sys2Proof.Machine
end

