-- ==== Sys2Proof/Laws/Commands.lean ====
section
/-! SUPPORT. Every command is its body and then the write-back; so what holds of each body's end holds of each command. -/

namespace Sys2Proof.Machine

/-- The body of each command: its pseudocode without the write-back, under any parameters. -/
def bodyOf (p : Params) (i : Instr) (s : State) : Ran :=
  match i with
  | .nop => nop s
  | .clrerr => clrerr s
  | .crcInit => crcInit s
  | .crcUpd imm8 => crcUpd imm8 s
  | .fmtBegin => fmtBegin s
  | .fmtHdr => fmtHdr p s
  | .fmtLoad => fmtLoad p s
  | .fmtEnc => fmtEnc p s
  | .fmtCsum => fmtCsum s
  | .fmtPack => fmtPack p s
  | .frag => frag p s
  | .dfmBegin => dfmBegin s
  | .dfmUnpack => dfmUnpack p s
  | .dfmCheck => dfmCheck s
  | .dfmDec => dfmDec p s
  | .dfmStore => dfmStore p s
  | .defrag => defrag p s

/-- `exec` runs the body with the machine's parameters and writes the result back (60_exceptions.md R193). -/
theorem exec_eq_finish (i : Instr) (s : State) : exec i s = finish (bodyOf Config.params i s) := by
  cases i <;> rfl

/-- A command answers a next state exactly when its body ended, and then that state is the write-back. -/
theorem exec_eq_next (i : Instr) (s t : State) :
    exec i s = .next t ↔ ∃ u r, bodyOf Config.params i s = .ended u r ∧ t = writeBack r u := by
  rw [exec_eq_finish, finish_eq_next]

/-- No command is ever refused. -/
theorem exec_ne_refused (i : Instr) (s : State) (q : Refusal) : exec i s ≠ .refused q := by
  rw [exec_eq_finish]; exact finish_ne_refused _ q

/-- A write to `CMD` answers a next state exactly when the word's command does, or the word is illegal and only the
write-back happens (30_encoding.md R84, R86). -/
theorem issue_eq_next (w : Half) (s t : State) :
    issue w s = .next t ↔ (∃ i, decode w = .ok i ∧ exec i s = .next t) ∨
      (∃ e, decode w = .error e ∧ t = writeBack .illegalCommand s) := by
  unfold issue
  cases decode w with
  | ok i => simp
  | error e => simp [execIllegal, finish, eq_comm]

end Sys2Proof.Machine
end

