-- ==== Sys2Proof/Laws/Crc.lean ====
section
/-! SUPPORT. The algebra of one bit of `crc_step`: linear over XOR, and it can be undone (40_crc.md R106, R107). -/

namespace Sys2Proof.Machine

/-- One bit of `crc_step` is linear over XOR. -/
theorem crcBit_xor (a b : Half) : crcBit (a ^^^ b) = crcBit a ^^^ crcBit b := by
  unfold crcBit crcPoly
  by_cases h : a.getLsbD 15 <;> by_cases h' : b.getLsbD 15 <;>
    simp [h, h', BitVec.shiftLeft_xor_distrib] <;> grind

/-- Any number of bits is linear over XOR. -/
theorem crcBits_xor (n : Nat) (a b : Half) : crcBits n (a ^^^ b) = crcBits n a ^^^ crcBits n b := by
  induction n generalizing a b with
  | zero => rfl
  | succ n ih => simp only [crcBits, crcBit_xor, ih]

/-- The bit shifted out can be read back: bit 0 of the polynomial is 1 and bit 0 of a shifted value is 0. -/
theorem crcBit_eq_zero (a : Half) (h : crcBit a = 0) : a = 0 := by
  unfold crcBit crcPoly at h
  split at h
  · have := congrArg (fun v : Half => v.getLsbD 0) h
    simp at this
  · rename_i hm
    apply BitVec.eq_of_getLsbD_eq
    intro i hi
    by_cases h15 : i = 15
    · subst h15; simpa using hm
    · have := congrArg (fun v : Half => v.getLsbD (i + 1)) h
      simp at this
      simpa using this (by omega)

/-- Only the zero accumulator is folded to zero by zero bits. -/
theorem crcBits_eq_zero (n : Nat) (a : Half) (h : crcBits n a = 0) : a = 0 := by
  induction n generalizing a with
  | zero => exact h
  | succ n ih => exact crcBit_eq_zero a (ih _ h)

end Sys2Proof.Machine
end

