-- ==== Sys2Proof/Laws/Invariant.lean ====
section
/-! SUPPORT. How each body that writes a bounded register or a memory keeps the invariants (10_state.md R43). -/

namespace Sys2Proof.Machine

open Sys2Proof.Safety

/-- The invariants read nine fields of the state only. -/
theorem inv_congr (p : Params) (s t : State) (h : Inv p s) (h1 : t.maxf = s.maxf) (h2 : t.nfr = s.nfr) (h3 : t.count = s.count)
   (h4 : t.tlen = s.tlen) (h5 : t.fidx = s.fidx) (h6 : t.outlen = s.outlen) (h7 : t.ctrl = s.ctrl) (h8 : t.pmem = s.pmem) (h9 : t.fmem = s.fmem) : Inv p t := by
  obtain ⟨a1,a2,a3,a4,a5,a6,a7,a8,a9,a10,a11,a12⟩ := h
  refine ⟨?_,?_,?_,?_,?_,?_,?_,?_,?_,?_,?_,?_⟩ <;> simp only [h1,h2,h3,h4,h5,h6,h7,h8,h9] <;> assumption

/-- The write-back touches `STATUS` only, so it keeps the invariants (60_exceptions.md R193). -/
theorem inv_writeBack (p : Params) (r : Result) (s : State) (h : Inv p s) : Inv p (writeBack r s) := by
  exact ⟨h.1,h.2,h.3,h.4,h.5,h.6,h.7,h.8,h.9,h.10,h.11,h.12⟩

/-- `FMT.BEGIN` leaves a count that fits and is the count of the latched length (41_formatter.md R123). -/
theorem inv_fmtBegin (p : Params) (s t : State) (r : Result) (hs : Inv p s) (h : fmtBegin s = .ended t r) : Inv p t := by
  have hn := nslot_le p
  have hb := frameCount_bounds s.len.toNat
  obtain ⟨a1,a2,a3,a4,a5,a6,a7,a8,a9,a10,a11,a12⟩ := hs
  rcases fmtBegin_cases s t r h with ⟨-, -, rfl⟩ | ⟨-, hle, rfl⟩
  · exact ⟨a1,a2,by simp,by simp,by simp,by simp,a7,a8,a9,a10,a11,a12⟩
  · have : frameCount s.len.toNat % 65536 = frameCount s.len.toNat := by omega
    have hp := pmemSize_eq p
    exact ⟨a1,a2,by simp [this],by simp [this]; omega,by simp; omega,by simp,a7,a8,a9,a10,a11,a12⟩

/-- Packing a frame of the sequence keeps `FMEM` canonical and in range (41_formatter.md R128). -/
theorem inv_advancePacked (p : Params) (s : State) (hs : Inv p s) (hf : s.fidx.toNat < s.count.toNat) (x : Fields) :
    Inv p (s.advancePacked (s.fmem.writeBytes (slotBase s.fidx.toNat) (pack x).toList)) := by
  have hlt := hs.count_le
  have hsl := slot_in_fmem p s.fidx.toNat (by omega)
  have hn := nslot_le p
  obtain ⟨a1,a2,a3,a4,a5,a6,a7,a8,a9,a10,a11,a12⟩ := hs
  refine ⟨a1,a2,a3,a4,a5,by simp; omega,a7,a8,a9,wf_writeBytes _ _ _ a10,a11,?_⟩
  · intro c hc
    rcases mem_of_mem_writeBytes _ _ _ _ hc with h | h
    · simp at h; simp [frameSize] at hsl; omega
    · exact a12 c h

/-- One turn of `FRAG` keeps the invariants. -/
theorem inv_fragFrame (p : Params) (s t : State) (r : Result) (hs : Inv p s) (hf : s.fidx.toNat < s.count.toNat)
    (h : fragFrame p s = .ended t r) : Inv p t := by
  rcases fragFrame_cases p s t r hf h with ⟨-, -, rfl⟩ | ⟨-, -, -, rfl⟩
  · exact inv_congr p s _ hs rfl rfl rfl rfl rfl rfl rfl rfl rfl
  · apply inv_advancePacked
    · exact inv_congr p s _ hs rfl rfl rfl rfl rfl rfl rfl rfl rfl
    · exact hf

/-- `DFM.BEGIN` keeps the invariants (42_deformatter.md R154). -/
theorem inv_dfmBegin (p : Params) (s t : State) (r : Result) (hs : Inv p s) (h : dfmBegin s = .ended t r) : Inv p t := by
  obtain ⟨rfl, -⟩ := dfmBegin_cases s t r h
  obtain ⟨a1,a2,a3,a4,a5,a6,a7,a8,a9,a10,a11,a12⟩ := hs
  exact ⟨a1,a2,a3,a4,a5,by simp,by simp,a8,a9,a10,a11,a12⟩

/-- `DFM.STORE` keeps `PMEM` canonical and in range (42_deformatter.md R158). -/
theorem inv_dfmStore (p : Params) (s t : State) (r : Result) (hs : Inv p s)
    (h : dfmStore p s = .ended t r) : Inv p t := by
  rcases dfmStore_cases p s t r h with ⟨-, -, rfl⟩ | ⟨n, -, hn, hsp, rfl⟩
  · exact hs
  have hle := storeCount_le s n hn
  have hfx := (storeCount_ok s n hn).1
  have hlt := hs.nfr_le
  have hch := chunk_in_pmem p s.fidx.toNat n (by omega) hle
  have hns := nslot_le p
  have hp := pmemSize_eq p
  obtain ⟨a1,a2,a3,a4,a5,a6,a7,a8,a9,a10,a11,a12⟩ := hs
  refine ⟨a1,a2,a3,a4,a5,by simp; omega,by simp; omega,a8,wf_writeBytes _ _ _ a9,a10,?_,a12⟩
  · intro c hc
    rcases mem_of_mem_writeBytes _ _ _ _ hc with h | h
    · simp at h; omega
    · exact a11 c h

/-- One turn of `DEFRAG` keeps the invariants. -/
theorem inv_defragFrame (p : Params) (s t : State) (r : Result) (hs : Inv p s) (hf : s.fidx.toNat < s.nfr.toNat)
    (h : defragFrame p s = .ended t r) : Inv p t := by
  obtain ⟨a, c, rfl, rfl, ⟨rfl, -⟩ | ⟨-, -, -, h⟩⟩ := defragFrame_cases p s t r hf h
  · exact inv_congr p s _ hs (by simp) (by simp) (by simp) (by simp) (by simp) (by simp) (by simp) (by simp) (by simp)
  · refine inv_dfmStore p _ t r ?_ h
    exact inv_congr p s _ hs (by simp) (by simp) (by simp) (by simp) (by simp) (by simp) (by simp) (by simp) (by simp)

/-- A host register write keeps the invariants: `MAXF` and `NFR` are clamped, `CTRL` is masked (10_state.md R28, R33, R34). -/
theorem inv_regStore (p : Params) (s : State) (r : Reg) (v : Nat) (hs : Inv p s) : Inv p (regStore p s r v) := by
  have h1 := nslot_le p
  obtain ⟨a1,a2,a3,a4,a5,a6,a7,a8,a9,a10,a11,a12⟩ := hs
  cases r
  case ctrl => exact ⟨a1,a2,a3,a4,a5,a6,a7,by simp [regStore, ctrlMask, BitVec.and_assoc],a9,a10,a11,a12⟩
  case maxf => exact ⟨by simp [regStore, clampSlots]; omega,a2,a3,a4,a5,a6,a7,a8,a9,a10,a11,a12⟩
  case nfr => exact ⟨a1,by simp [regStore, clampSlots]; omega,a3,a4,a5,a6,a7,a8,a9,a10,a11,a12⟩
  all_goals exact ⟨a1,a2,a3,a4,a5,a6,a7,a8,a9,a10,a11,a12⟩

end Sys2Proof.Machine
end

