-- ==== Sys2Proof/Laws/DefragTurn.lean ====
section
/-! SUPPORT. What one whole turn of `DEFRAG` leaves, and what its loop leaves after the frames that pass (42_deformatter.md
R159). -/

namespace Sys2Proof.Machine

open Sys2Proof.Safety

/-- The decrypted data field of slot `i` (42_deformatter.md R150). -/
def plainAt (p : Params) (s : State) (i : Nat) : Block := p.dec s.key (unpack (readSlot p s i)).data

/-- The number of real bytes of slot `i` (42_deformatter.md R152). -/
def realAt (p : Params) (s : State) (i : Nat) : Nat := realLen i s.nfr.toNat (lenMode s) s.rxlen.toNat (plainAt p s i)

/-- A slot depends on `FMEM` and the epoch only. -/
theorem readSlot_congr (p : Params) (s t : State) (i : Nat) (h : t.fmem = s.fmem) (he : t.epoch = s.epoch) : readSlot p t i = readSlot p s i := by
  unfold readSlot; congr 1; funext o; exact fmemByte_congr p s t h he _

/-- The state after a whole turn of `DEFRAG` that raises nothing. -/
def defragTurn (p : Params) (s : State) : State :=
  let a := s.setFields (unpack (readSlot p s s.fidx.toNat))
  let c := a.setAcc a.headerChecksum
  let d := c.setData (plainAt p s s.fidx.toNat)
  d.advanceStored (s.pmem.writeBytes (chunkBase s.fidx.toNat) ((plainAt p s s.fidx.toNat).toList.take (realAt p s s.fidx.toNat)))
    (BitVec.ofNat 32 (chunkBase s.fidx.toNat + realAt p s s.fidx.toNat))

/-- Where `len_ok` holds, `DFM.STORE` stores the real bytes of the frame (42_deformatter.md R158). -/
theorem storeCount_of_lenOk (s : State) (hf : s.fidx.toNat < s.nfr.toNat) (hl : lenOk s.nfr.toNat (lenMode s) (lenValid s.ctrl) s.rxlen.toNat = true) :
    storeCount s = .ok (realLen s.fidx.toNat s.nfr.toNat (lenMode s) s.rxlen.toNat s.data) := by
  unfold storeCount realLen
  rw [if_neg (by omega)]
  by_cases h : s.fidx.toNat < s.nfr.toNat - 1
  · rw [if_pos h, if_pos h]
  · rw [if_neg h, if_neg h]
    cases hm : lenMode s with
    | zscan => rfl
    | explicit => rw [hm] at hl; simp [hl]

/-- With a frame to read, `DFM.UNPACK` ends with `OK` (42_deformatter.md R155). -/
theorem dfmUnpack_ok (p : Params) (s : State) (hs : Inv p s) (hf : s.fidx.toNat < s.nfr.toNat) :
   dfmUnpack p s = .ended (s.setFields (unpack (readSlot p s s.fidx.toNat))) .ok := by
  have hq := slot_in_fmem p s.fidx.toNat (by have := hs.nfr_le; omega)
  unfold dfmUnpack
  rw [if_neg (by omega), withFmemSpan_of_ok _ _ _ _ (.inr hq)]; rfl

/-- The length policy is read from `CTRL` only. -/
theorem lenMode_congr (s t : State) (h : t.ctrl = s.ctrl) : lenMode t = lenMode s := by unfold lenMode; rw [h]

/-- With a key and a length that can be, a turn on a frame that passes ends with `OK`. -/
theorem defragFrame_ok (p : Params) (s : State) (hs : Inv p s) (hf : s.fidx.toNat < s.nfr.toNat) (hk : keyValid s = true)
    (hl : lenOk s.nfr.toNat (lenMode s) (lenValid s.ctrl) s.rxlen.toNat = true) (hp : framePasses p s s.fidx.toNat) :
    defragFrame p s = .ended (defragTurn p s) .ok := by
  unfold defragFrame
  rw [dfmUnpack_ok p s hs hf, andThen_ok]
  obtain ⟨a, ha⟩ : ∃ a, a = s.setFields (unpack (readSlot p s s.fidx.toNat)) := ⟨_, rfl⟩
  have hc : dfmCheck a = .ended (a.setAcc a.headerChecksum) .ok := by
    have h1 : a.headerChecksum = a.csum := by simp only [ha, State.headerChecksum, State.setFields]; exact hp.1
    have h2 : a.exp = a.nfr := by simp only [ha, State.setFields]; exact hp.2
    unfold dfmCheck; rw [if_neg (by simp [h1]), if_neg (by simp [h2])]; rfl
  rw [← ha, hc, andThen_ok]
  have hd : dfmDec p (a.setAcc a.headerChecksum) = .ended ((a.setAcc a.headerChecksum).setData (plainAt p s s.fidx.toNat)) .ok := by
    unfold dfmDec; rw [if_pos (by simp [hk, ha])]
    simp [ha, plainAt, State.setFields]
  rw [hd, andThen_ok]
  have hsc := storeCount_of_lenOk ((a.setAcc a.headerChecksum).setData (plainAt p s s.fidx.toNat)) (by simp [ha]; exact hf) (by
    rw [lenMode_congr s _ (by simp [ha])]; simp [ha]; exact hl)
  rw [lenMode_congr s _ (by simp [ha])] at hsc
  have : realLen s.fidx.toNat s.nfr.toNat (lenMode s) s.rxlen.toNat (plainAt p s s.fidx.toNat) = realAt p s s.fidx.toNat := rfl
  have hsc' : storeCount ((a.setAcc a.headerChecksum).setData (plainAt p s s.fidx.toNat)) = .ok (realAt p s s.fidx.toNat) := by
    rw [hsc, ← this]; simp [ha]
  unfold dfmStore
  rw [hsc']
  have hle := realLen_le s.fidx.toNat s.nfr.toNat (lenMode s) (lenValid s.ctrl) s.rxlen.toNat (plainAt p s s.fidx.toNat) hl
  have hpm := chunk_in_pmem p s.fidx.toNat (realAt p s s.fidx.toNat) (by have := hs.nfr_le; omega) hle
  have hfx : ((a.setAcc a.headerChecksum).setData (plainAt p s s.fidx.toNat)).fidx = s.fidx := by simp [ha]
  simp only
  rw [hfx, withPmemSpan_of_ok _ _ _ _ (.inr hpm)]
  unfold defragTurn
  simp [ha]

/-- What a turn can change. -/
theorem defragTurn_frame (p : Params) (s : State) : defragTurn p s = { s with
    sflag := (defragTurn p s).sflag, opc := (defragTurn p s).opc, pkt := (defragTurn p s).pkt, exp := (defragTurn p s).exp,
    csum := (defragTurn p s).csum, eflag := (defragTurn p s).eflag, data := (defragTurn p s).data,
    acc := (defragTurn p s).acc, fidx := s.fidx + 1, outlen := (defragTurn p s).outlen, pmem := (defragTurn p s).pmem } := by
  apply State.ext <;> simp [defragTurn]

/-- A turn writes the real bytes of its frame and no other byte of `PMEM`. -/
theorem defragTurn_pmem (p : Params) (s : State) (a : Nat) (hn : realAt p s s.fidx.toNat ≤ 22) :
    pmemByte p (defragTurn p s) a = if h : 22 * s.fidx.toNat ≤ a ∧ a < 22 * s.fidx.toNat + realAt p s s.fidx.toNat then
      (plainAt p s s.fidx.toNat)[a - 22 * s.fidx.toNat] else pmemByte p s a := by
  rw [pmemByte_writeBytes p s (defragTurn p s) (22 * s.fidx.toNat) ((plainAt p s s.fidx.toNat).toList.take (realAt p s s.fidx.toNat)) a
     (by simp [defragTurn, chunkBase]) (by simp [defragTurn])]
  simp only [List.length_take, Vector.length_toList, List.getElem_take, Vector.getElem_toList, Nat.min_eq_left hn]

/-- A turn leaves its frame in the registers, decrypted, and `ACC` equal to `CSUM`. -/
theorem defragTurn_fields (p : Params) (s : State) (hp : framePasses p s s.fidx.toNat) :
    (defragTurn p s).fields = { unpack (readSlot p s s.fidx.toNat) with data := plainAt p s s.fidx.toNat } ∧ (defragTurn p s).acc = (defragTurn p s).csum := by
  refine ⟨by simp [defragTurn, State.fields], ?_⟩
  simp [defragTurn]; exact hp.1

/-- The first `m` turns, on frames that pass: their real bytes are in `PMEM`, and the loop goes on from there. -/
theorem defragLoop_pass (p : Params) (m : Nat) (s : State) (hs : Inv p s) (hk : keyValid s = true)
    (hl : lenOk s.nfr.toNat (lenMode s) (lenValid s.ctrl) s.rxlen.toNat = true) (hm : s.fidx.toNat + m ≤ s.nfr.toNat)
    (hp : ∀ i, s.fidx.toNat ≤ i → i < s.fidx.toNat + m → framePasses p s i) :
    ∃ u, (∀ n, defragLoop p (m + n) s = defragLoop p n u) ∧ u.fidx.toNat = s.fidx.toNat + m ∧ Inv p u ∧
      (∀ a, pmemByte p u a = if _ : 22 * s.fidx.toNat ≤ a ∧ a < 22 * (s.fidx.toNat + m) ∧ a % 22 < realAt p s (a / 22) then
        (plainAt p s (a / 22))[a % 22]'(by have := Nat.mod_lt a (show 0 < 22 by decide); omega) else pmemByte p s a) ∧
      (0 < m → u.outlen.toNat = 22 * (s.fidx.toNat + m - 1) + realAt p s (s.fidx.toNat + m - 1) ∧
         u.fields = { unpack (readSlot p s (s.fidx.toNat + m - 1)) with data := plainAt p s (s.fidx.toNat + m - 1) } ∧ u.acc = u.csum) ∧
      (m = 0 → u = s) ∧
      u = { s with
        sflag := u.sflag, opc := u.opc, pkt := u.pkt, exp := u.exp, csum := u.csum, eflag := u.eflag, data := u.data
        acc := u.acc, fidx := u.fidx, outlen := u.outlen, pmem := u.pmem } := by
  induction m with
  | zero =>
    refine ⟨s, fun n => by rw [Nat.zero_add], rfl, hs, ?_, by simp, fun _ => rfl, rfl⟩
    intro a; rw [dif_neg (by omega)]
  | succ m ih =>
    obtain ⟨u, e1, e2, e3, e4, -, e6, e7⟩ := ih (by omega) (fun i h1 h2 => hp i h1 (by omega))
    have n1 : u.nfr = s.nfr := by rw [e7]
    have n2 : u.ctrl = s.ctrl := by rw [e7]
    have n3 : u.rxlen = s.rxlen := by rw [e7]
    have n4 : u.key = s.key := by rw [e7]
    have n5 : u.keyw = s.keyw := by rw [e7]
    have n6 : u.fmem = s.fmem := by rw [e7]
    have n7 : u.epoch = s.epoch := by rw [e7]
    have n8 : lenMode u = lenMode s := lenMode_congr _ _ n2
    have hrd : ∀ i, readSlot p u i = readSlot p s i := fun i => readSlot_congr p s u i n6 n7
    have hpl : ∀ i, plainAt p u i = plainAt p s i := fun i => by unfold plainAt; rw [hrd, n4]
    have hrl : ∀ i, realAt p u i = realAt p s i := fun i => by unfold realAt; rw [hpl, n1, n8, n3]
    have hfp : framePasses p u u.fidx.toNat := by
      have := hp (s.fidx.toNat + m) (by omega) (by omega)
      unfold framePasses at this ⊢; rw [hrd, n1, e2]; exact this
    have hlt : u.fidx.toNat < u.nfr.toNat := by rw [n1]; omega
    have hku : keyValid u = true := by rw [← hk]; exact keyValid_congr _ _ n5
    have hbody := defragFrame_ok p u e3 hlt hku (by rw [n1, n8, n2, n3]; exact hl) hfp
    have hrle : ∀ i, realAt p s i ≤ 22 := fun i => realLen_le _ _ _ _ _ _ hl
    have hfx : (defragTurn p u).fidx = u.fidx + 1 := by rw [defragTurn_frame]
    have hfs : (u.fidx + 1).toNat = u.fidx.toNat + 1 := by
      have := u.nfr.isLt; simp; omega
    have hd := defragTurn_fields p u hfp
    rw [e2, hrd, hpl] at hd
    refine ⟨defragTurn p u, ?_, by rw [hfx, hfs, e2]; omega, inv_defragFrame p u _ _ e3 hlt hbody, ?_, ?_, by simp, ?_⟩
    · intro n
      rw [show m + 1 + n = m + (n + 1) by omega, e1]
      rw [defragLoop, if_pos hlt, hbody, andThen_ok]
    · intro a
      rw [defragTurn_pmem p u a (by rw [hrl]; exact hrle _)]
      simp only [hrl, hpl, e2, e4]
      by_cases h1 : a / 22 = s.fidx.toNat + m
      · by_cases h2 : a % 22 < realAt p s (s.fidx.toNat + m)
        · have h3 : a - 22 * (s.fidx.toNat + m) = a % 22 := by omega
          rw [dif_pos (by omega), dif_pos (by rw [h1]; omega)]
          simp only [h1, h3]
        · have := hrle (s.fidx.toNat + m)
          rw [dif_neg (by omega), dif_neg (by omega), dif_neg (by rw [h1]; omega)]
      · have := hrle (s.fidx.toNat + m)
        rw [dif_neg (by omega)]
        by_cases h2 : 22 * s.fidx.toNat ≤ a ∧ a < 22 * (s.fidx.toNat + m) ∧ a % 22 < realAt p s (a / 22)
        · rw [dif_pos h2, dif_pos (by omega)]
        · rw [dif_neg h2, dif_neg (by omega)]
    · intro _
      refine ⟨?_, hd.1, hd.2⟩
      have h5 : (defragTurn p u).outlen = BitVec.ofNat 32 (22 * (s.fidx.toNat + m) + realAt p s (s.fidx.toNat + m)) := by
        have : (defragTurn p u).outlen = BitVec.ofNat 32 (chunkBase u.fidx.toNat + realAt p u u.fidx.toNat) := by simp [defragTurn]
        rw [this, hrl, e2]; rfl
      have := hrle (s.fidx.toNat + m)
      have := s.nfr.isLt
      rw [h5]; simp; omega
    · have h6 := defragTurn_frame p u
      rw [h6]; rw [e7]

/-- A length that can be (42_deformatter.md R154). -/
theorem dfmBegin_ok (s : State) (hl : lenOk s.nfr.toNat (lenMode s) (lenValid s.ctrl) s.rxlen.toNat = true) :
    dfmBegin s = .ended s.startReceive .ok := by
  unfold dfmBegin; rw [if_pos hl]; rfl

end Sys2Proof.Machine
end

