-- ==== Sys2Proof/Laws/FragTurn.lean ====
section
/-! SUPPORT. What one whole turn of `FRAG` leaves, and what its loop leaves after all turns (41_formatter.md R129). -/

namespace Sys2Proof.Machine

open Sys2Proof.Safety

/-- The frame `FRAG` builds in turn `i` from a state `s` of the transmission (41_formatter.md R120, R124 to R127). -/
def fragFields (p : Params) (s : State) (i : Nat) : Fields :=
  { sflag := p.startFlag, opc := s.opcfg, pkt := BitVec.ofNat 16 (s.count.toNat - i), exp := s.count
    data := p.enc s.key (Vector.ofFn fun j : Fin 22 =>
      if j.val < chunkLen s.tlen.toNat i then pmemByte p s (22 * i + j.val) else 0)
    csum := hdrCsum p.startFlag s.opcfg (BitVec.ofNat 16 (s.count.toNat - i)) s.count, eflag := p.endFlag }

/-- A turn leaves its frame in the registers, and `ACC` equal to `CSUM`. -/
theorem fragTurn_fields (p : Params) (s : State) (h : s.fidx.toNat < s.count.toNat) :
    (fragTurn p s).fields = fragFields p s s.fidx.toNat ∧ (fragTurn p s).acc = (fragTurn p s).csum := by
  refine ⟨?_, rfl⟩
  have hk : s.count - s.fidx = BitVec.ofNat 16 (s.count.toNat - s.fidx.toNat) := by
    apply BitVec.eq_of_toNat_eq; simp; omega
  unfold fragFields
  rw [← hk]
  rfl

/-- What a turn can change. -/
theorem fragTurn_frame (p : Params) (s : State) : fragTurn p s = { s with
   sflag := (fragTurn p s).sflag, opc := (fragTurn p s).opc, pkt := (fragTurn p s).pkt, exp := (fragTurn p s).exp, csum := (fragTurn p s).csum, eflag := (fragTurn p s).eflag, data := (fragTurn p s).data, acc := (fragTurn p s).acc, fmem := (fragTurn p s).fmem, fidx := s.fidx + 1 } := by
  apply State.ext <;> simp [fragTurn]

/-- A turn writes the 32 bytes of its slot and no other byte of `FMEM`. -/
theorem fragTurn_fmem (p : Params) (s : State) (a : Nat) (h : s.fidx.toNat < s.count.toNat) : fmemByte p (fragTurn p s) a =
   if hh : 32 * s.fidx.toNat ≤ a ∧ a < 32 * s.fidx.toNat + 32 then (pack (fragFields p s s.fidx.toNat))[a - 32 * s.fidx.toNat] else fmemByte p s a := by
  have hm : (fragTurn p s).fmem = s.fmem.writeBytes (32 * s.fidx.toNat) (pack (fragTurn p s).fields).toList := by
    simp [fragTurn, slotBase]
  rw [fmemByte_writeBytes p s (fragTurn p s) _ _ a hm (by simp [fragTurn]), (fragTurn_fields p s h).1]
  simp only [Vector.length_toList, Vector.getElem_toList]

/-- The frames of a transmission depend on registers that no turn changes. -/
theorem fragFields_congr (p : Params) (s t : State) (i : Nat) (h1 : t.opcfg = s.opcfg) (h2 : t.count = s.count) (h3 : t.key = s.key)
    (h4 : t.tlen = s.tlen) (h5 : t.pmem = s.pmem) (h6 : t.epoch = s.epoch) : fragFields p t i = fragFields p s i := by
  unfold fragFields pmemByte
  rw [h1,h2,h3,h4,h5,h6]

/-- With a key, a turn on a frame of the sequence ends with `OK`. -/
theorem fragFrame_ok (p : Params) (s : State) (hs : Inv p s) (hf : s.fidx.toNat < s.count.toNat) (hk : keyValid s = true) :
    fragFrame p s = .ended (fragTurn p s) .ok := by
  have hc := hs.count_le
  have hcl := chunkLen_bounds s.tlen.toNat s.fidx.toNat (by rw [← hs.count_eq]; exact hf)
  have hp := chunk_in_pmem p s.fidx.toNat (chunkLen s.tlen.toNat s.fidx.toNat) (by omega) hcl.2.1
  have hq := slot_in_fmem p s.fidx.toNat (by omega)
  have hnot : ¬ s.count.toNat ≤ s.fidx.toNat := by omega
  have h1 : fmtHdr p s = .ended (s.setHeader p.startFlag s.opcfg (s.count - s.fidx) s.count p.endFlag) .ok := by
    simp [fmtHdr, hnot]
  unfold fragFrame
  rw [h1, andThen_ok]
  have h2 : ∀ u : State, u.count = s.count → u.fidx = s.fidx → u.tlen = s.tlen → fmtLoad p u = .ended (u.setData (loadedBlock p u)) .ok := by
    intro u e1 e2 e3
    unfold fmtLoad
    rw [e1, e2, e3, if_neg hnot, withPmemSpan_of_ok _ _ _ _ (.inr hp)]; rfl
  rw [h2 _ (by simp) (by simp) (by simp), andThen_ok]
  have h3 : ∀ u : State, keyValid u = true → fmtEnc p u = .ended (u.setData (p.enc u.key u.data)) .ok := by
    intro u e; simp [fmtEnc, e]
  rw [h3 _ (by simp [hk]), andThen_ok, fmtCsum_eq, andThen_ok]
  have h4 : ∀ u : State, u.count = s.count → u.fidx = s.fidx → fmtPack p u = .ended (u.advancePacked (u.fmem.writeBytes (slotBase u.fidx.toNat) (pack u.fields).toList)) .ok := by
    intro u e1 e2
    unfold fmtPack
    rw [e1, e2, if_neg hnot, withFmemSpan_of_ok _ _ _ _ (.inr hq)]; rfl
  rw [h4 _ (by simp) (by simp)]; rfl

/-- Below `COUNT`, `FIDX + 1` does not wrap. -/
theorem fidx_succ (s : State) (h : s.fidx.toNat < s.count.toNat) : (s.fidx + 1).toNat = s.fidx.toNat + 1 := by
  have := s.count.isLt
  simp; omega

/-- All turns together: every slot from `FIDX` up to `COUNT` holds its frame, nothing else of `FMEM` changes. -/
theorem fragLoop_spec (p : Params) (n : Nat) (s : State) (hs : Inv p s) (hk : keyValid s = true)
    (hle : s.fidx.toNat ≤ s.count.toNat) (hn : n = s.count.toNat - s.fidx.toNat) :
    ∃ t, fragLoop p n s = .ended t .ok ∧ t.fidx = s.count ∧
      (∀ i (_ : s.fidx.toNat ≤ i) (_ : i < s.count.toNat) o (_ : o < 32), fmemByte p t (32 * i + o) = (pack (fragFields p s i))[o]) ∧
      (∀ a, a < 32 * s.fidx.toNat ∨ 32 * s.count.toNat ≤ a → fmemByte p t a = fmemByte p s a) ∧
      (s.fidx.toNat < s.count.toNat → t.fields = fragFields p s (s.count.toNat - 1) ∧ t.acc = t.csum) ∧
      (s.fidx.toNat = s.count.toNat → t = s) ∧
      t = { s with
        sflag := t.sflag, opc := t.opc, pkt := t.pkt, exp := t.exp, csum := t.csum, eflag := t.eflag, data := t.data
        acc := t.acc, fidx := t.fidx, fmem := t.fmem } := by
  induction n generalizing s with
  | zero =>
    have he : s.fidx = s.count := BitVec.eq_of_toNat_eq (by omega)
    exact ⟨s, rfl, he, by intros; omega, fun _ _ => rfl, by intros; omega, fun _ => rfl, rfl⟩
  | succ n ih =>
    have hlt : s.fidx.toNat < s.count.toNat := by omega
    have hsu := fidx_succ s hlt
    have hfr := fragTurn_frame p s
    have hu1 : (fragTurn p s).fidx = s.fidx + 1 := by simp [fragTurn]
    have hu2 : (fragTurn p s).count = s.count := by simp [fragTurn]
    have hbody := fragFrame_ok p s hs hlt hk
    have hinv := inv_fragFrame p s _ _ hs hlt hbody
    have hkv : keyValid (fragTurn p s) = true := by rw [← hk]; exact keyValid_congr _ _ (by simp [fragTurn])
    obtain ⟨t, e1, e2, e3, e4, e5, e6, e7⟩ := ih (fragTurn p s) hinv hkv (by rw [hu1, hu2, hsu]; omega) (by rw [hu1, hu2, hsu]; omega)
    rw [hu1, hu2, hsu] at e3 e4 e5 e6
    have hff : ∀ i, fragFields p (fragTurn p s) i = fragFields p s i := fun i => fragFields_congr p s _ i (by simp [fragTurn]) (by simp [fragTurn]) (by simp [fragTurn]) (by simp [fragTurn]) (by simp [fragTurn]) (by simp [fragTurn])
    refine ⟨t, ?_, e2, ?_, ?_, ?_, by intros; omega, ?_⟩
    · unfold fragLoop; rw [if_pos hlt, hbody, andThen_ok, e1]
    · intro i h1 h2 o ho
      by_cases hi : i = s.fidx.toNat
      · subst hi
        rw [e4 _ (.inl (by omega)), fragTurn_fmem p s _ hlt, dif_pos (by omega)]
        congr 1; omega
      · rw [e3 i (by omega) h2 o ho]; simp only [hff]
    · intro a ha
      rw [e4 a (by omega), fragTurn_fmem p s _ hlt, dif_neg (by omega)]
    · intro _
      by_cases hl : s.fidx.toNat + 1 < s.count.toNat
      · rw [← hff]; exact e5 hl
      · have heq : s.fidx.toNat + 1 = s.count.toNat := by omega
        rw [e6 heq]
        have := fragTurn_fields p s hlt
        rw [show s.count.toNat - 1 = s.fidx.toNat by omega]; exact this
    · rw [e7, hfr]

/-- An accepted length (41_formatter.md R123). -/
theorem fmtBegin_ok (s : State) (h : frameCount s.len.toNat ≤ s.maxf.toNat) :
   fmtBegin s = .ended (s.startTransmit s.len (BitVec.ofNat 16 (frameCount s.len.toNat))) .ok := by
  unfold fmtBegin; rw [if_neg (by omega)]; rfl

end Sys2Proof.Machine
end

