-- ==== Sys2Proof/Laws/PerInstr.lean ====
section
/-! SUPPORT. What holds of every command as syntax, one lemma per command. -/

namespace Sys2Proof.Laws

/-- The word of a command, masked with its row's mask, is its row's match (30_encoding.md R83). -/
def EncodesItsRow.Statement (i : Instr) : Prop := encode i &&& i.rowMask = i.rowMatch

theorem EncodesItsRow.nop : EncodesItsRow.Statement .nop := by
  show encode .nop &&& Instr.rowMask .nop = Instr.rowMatch .nop
  decide

theorem EncodesItsRow.clrerr : EncodesItsRow.Statement .clrerr := by
  show encode .clrerr &&& Instr.rowMask .clrerr = Instr.rowMatch .clrerr
  decide

theorem EncodesItsRow.crcInit : EncodesItsRow.Statement .crcInit := by
  show encode .crcInit &&& Instr.rowMask .crcInit = Instr.rowMatch .crcInit
  decide

theorem EncodesItsRow.crcUpd (imm8 : Byte) : EncodesItsRow.Statement (.crcUpd imm8) := by
  show (0x1100#16 ||| imm8.zeroExtend 16) &&& 0xFF00#16 = 0x1100#16
  apply BitVec.eq_of_getLsbD_eq
  intro j hj
  interval_cases j <;> simp

theorem EncodesItsRow.fmtBegin : EncodesItsRow.Statement .fmtBegin := by
  show encode .fmtBegin &&& Instr.rowMask .fmtBegin = Instr.rowMatch .fmtBegin
  decide

theorem EncodesItsRow.fmtHdr : EncodesItsRow.Statement .fmtHdr := by
  show encode .fmtHdr &&& Instr.rowMask .fmtHdr = Instr.rowMatch .fmtHdr
  decide

theorem EncodesItsRow.fmtLoad : EncodesItsRow.Statement .fmtLoad := by
  show encode .fmtLoad &&& Instr.rowMask .fmtLoad = Instr.rowMatch .fmtLoad
  decide

theorem EncodesItsRow.fmtEnc : EncodesItsRow.Statement .fmtEnc := by
  show encode .fmtEnc &&& Instr.rowMask .fmtEnc = Instr.rowMatch .fmtEnc
  decide

theorem EncodesItsRow.fmtCsum : EncodesItsRow.Statement .fmtCsum := by
  show encode .fmtCsum &&& Instr.rowMask .fmtCsum = Instr.rowMatch .fmtCsum
  decide

theorem EncodesItsRow.fmtPack : EncodesItsRow.Statement .fmtPack := by
  show encode .fmtPack &&& Instr.rowMask .fmtPack = Instr.rowMatch .fmtPack
  decide

theorem EncodesItsRow.frag : EncodesItsRow.Statement .frag := by
  show encode .frag &&& Instr.rowMask .frag = Instr.rowMatch .frag
  decide

theorem EncodesItsRow.dfmBegin : EncodesItsRow.Statement .dfmBegin := by
  show encode .dfmBegin &&& Instr.rowMask .dfmBegin = Instr.rowMatch .dfmBegin
  decide

theorem EncodesItsRow.dfmUnpack : EncodesItsRow.Statement .dfmUnpack := by
  show encode .dfmUnpack &&& Instr.rowMask .dfmUnpack = Instr.rowMatch .dfmUnpack
  decide

theorem EncodesItsRow.dfmCheck : EncodesItsRow.Statement .dfmCheck := by
  show encode .dfmCheck &&& Instr.rowMask .dfmCheck = Instr.rowMatch .dfmCheck
  decide

theorem EncodesItsRow.dfmDec : EncodesItsRow.Statement .dfmDec := by
  show encode .dfmDec &&& Instr.rowMask .dfmDec = Instr.rowMatch .dfmDec
  decide

theorem EncodesItsRow.dfmStore : EncodesItsRow.Statement .dfmStore := by
  show encode .dfmStore &&& Instr.rowMask .dfmStore = Instr.rowMatch .dfmStore
  decide

theorem EncodesItsRow.defrag : EncodesItsRow.Statement .defrag := by
  show encode .defrag &&& Instr.rowMask .defrag = Instr.rowMatch .defrag
  decide

end Sys2Proof.Laws
end

