-- ==== Sys2Proof/Tests/Slice0.lean ====
section
/-! SUPPORT. Small tests. Every expected value is one the spec prints: 95_test_vectors.md (V…, P…), the examples of the
command rules, or the encoding table of 30_encoding.md R83. The last part shows, for each statement that has hypotheses, a
state and operands that meet them all. -/

-- One proof after another: proofs elaborated beside each other need one thread each, and memory for its stack.
set_option Elab.async false

namespace Sys2Proof.Tests

open Sys2Proof.Machine Sys2Proof.Safety

/-! ### Encoding -/

/-- The command words of 30_encoding.md R83, written out. -/
theorem test_decode_every_command_word :
    decode 0x0000 = .ok .nop ∧ decode 0x0100 = .ok .clrerr ∧ decode 0x1000 = .ok .crcInit ∧
    decode 0x1100 = .ok (.crcUpd 0x00) ∧ decode 0x1161 = .ok (.crcUpd 0x61) ∧ decode 0x11FF = .ok (.crcUpd 0xFF) ∧
    decode 0x2000 = .ok .fmtBegin ∧ decode 0x2100 = .ok .fmtHdr ∧ decode 0x2200 = .ok .fmtLoad ∧
    decode 0x2300 = .ok .fmtEnc ∧ decode 0x2400 = .ok .fmtCsum ∧ decode 0x2500 = .ok .fmtPack ∧
    decode 0x2F00 = .ok .frag ∧ decode 0x3000 = .ok .dfmBegin ∧ decode 0x3100 = .ok .dfmUnpack ∧
    decode 0x3200 = .ok .dfmCheck ∧ decode 0x3300 = .ok .dfmDec ∧ decode 0x3400 = .ok .dfmStore ∧
    decode 0x3F00 = .ok .defrag := by decide +kernel

/-- V50: illegal words, rejected by name. -/
theorem test_decode_illegal_words :
    decode 0x0500 = .error (.unassignedCode 0x05) ∧ decode 0x3500 = .error (.unassignedCode 0x35) ∧
    decode 0xFFFF = .error (.unassignedCode 0xFF) ∧ decode 0x2001 = .error (.operandNotZero 0x20 0x01) ∧
    decode 0x3F80 = .error (.operandNotZero 0x3F 0x80) ∧ decode 0x0001 = .error (.operandNotZero 0x00 0x01) := by
  decide

/-- V50: the rest of the list of illegal words. -/
theorem test_decode_more_illegal_words :
    ([0x00FF, 0x0101, 0x0200, 0x0F00, 0x1001, 0x1200, 0x1F00, 0x2101, 0x2600, 0x2E00, 0x2F01, 0x3001, 0x3E00, 0x4000, 0x7E7E,
      0x8000, 0xFF00].all fun w => (decodeTableWord 16 w).isNone) = true := by decide +kernel

/-! ### The parameters of the vectors (95_test_vectors.md section 0) -/

/-- Test cipher X: `d[j] XOR k[j mod 16]`. -/
def cipherX (k : Key) (d : Block) : Block :=
  Vector.ofFn fun j : Fin 22 => d[j.val] ^^^ k[j.val % 16]'(Nat.mod_lt _ (by decide))

/-- Flags `0x7E`, `OPCODE_RESET = 0`, `NSLOT = 16`, cipher X, memories filled with `EE`. -/
def vp : Params where
  startFlag := 0x7E
  endFlag := 0x7E
  opcodeReset := 0x0000
  lastSlot := 15
  enc := cipherX
  dec := cipherX
  pmemInit := fun _ _ => 0xEE
  fmemInit := fun _ _ => 0xEE

/-- The fresh block: `Reset`, `KEY[j] = j`, `OPCFG = 0x1234`. -/
def fresh : State :=
  { State.resetOf vp with
    key := Vector.ofFn fun j : Fin 16 => BitVec.ofNat 8 j.val
    keyw := Vector.replicate 16 true
    opcfg := 0x1234 }

/-- Bytes at rising addresses from `base`. -/
def bytesAt (base : Nat) (bs : List Byte) : Memory := Memory.writeBytes [] base bs

/-- Payload `A(n)`: `01 02 03 ...`. -/
def payloadA (n : Nat) : Memory := bytesAt 0 ((List.range n).map fun i => BitVec.ofNat 8 (i + 1))

/-- A data field from its first bytes, zeros after them. -/
def block (bs : List Byte) : Block := Vector.ofFn fun j : Fin 22 => bs.getD j.val 0

/-- The body ended with this result in a state that passes the test. -/
def endsWith (x : Ran) (r : Result) (f : State → Bool) : Bool :=
  match x with
  | .ended s q => decide (q = r) && f s
  | .faulted _ => false

/-- The outcome is a next state that passes the test. -/
def next? (x : Host.Outcome State Fault Refusal) (f : State → Bool) : Bool :=
  match x with
  | .next s => f s
  | .fault _ => false
  | .refused _ => false

/-! ### Well-formedness -/

theorem test_wellFormed_every_command :
    (∀ b, (Instr.crcUpd b).wellFormed = true) ∧ Instr.frag.wellFormed = true ∧ Instr.defrag.wellFormed = true :=
  ⟨fun _ => rfl, rfl, rfl⟩

/-- The first byte beyond each memory does not exist, the last one does (U2; 352 and 512 bytes with 16 slots). -/
theorem test_wellFormed_refuses_missing_bytes :
    (HostAction.pmRead 352).wellFormed vp = false ∧ (HostAction.pmWrite 352 0).wellFormed vp = false ∧
    (HostAction.fmRead 512).wellFormed vp = false ∧ (HostAction.fmWrite 512 0).wellFormed vp = false ∧
    (HostAction.pmRead 351).wellFormed vp = true ∧ (HostAction.fmWrite 511 0).wellFormed vp = true := by decide +kernel

/-- The same accesses have no step. -/
theorem test_missing_bytes_are_refused :
    hostStep vp (.pmRead 352) fresh = .refused (.hostPmemRange 352) ∧
    hostStep vp (.fmWrite 512 0) fresh = .refused (.hostFmemRange 512) := ⟨rfl, rfl⟩

/-! ### System commands and the checksum engine -/

/-- `STATUS = 0x52`, the example of 43_system.md R180 and R181. -/
def failed : State := { fresh with err := 2, stkerr := 2 }

theorem test_nop_example : statusWord failed = 0x52 ∧ next? (exec .nop failed) (fun t => statusWord t == 0x50) = true := by
  decide

theorem test_clrerr_example : next? (exec .clrerr failed) (fun t => statusWord t == 0x40) = true := by decide +kernel

/-- V51 steps 3 and 4: an illegal word, then the first code sticks. -/
theorem test_illegal_word_sticks :
    next? (issue 0x0500 (State.resetOf vp)) (fun t => statusWord t == 0x2D) = true ∧
    next? (exec .fmtEnc { State.resetOf vp with err := 5, stkerr := 5 }) (fun t => statusWord t == 0x2E) = true := by
  decide

theorem test_crcInit_example : endsWith (crcInit { fresh with acc := 0x1234 }) .ok (fun t => t.acc == 0xFFFF) = true := by
  decide

/-- V7 and a row of V15. -/
theorem test_crcUpd_examples :
    endsWith (crcUpd 0x61 fresh) .ok (fun t => t.acc == 0x9D77) = true ∧
    endsWith (crcUpd 0x00 { fresh with acc := 0x741A }) .ok (fun t => t.acc == 0x2413) = true := by decide +kernel

/-- V5, V11 and rows of V15 and V16. -/
theorem test_crc_vectors :
    crc16 [0x31, 0x32, 0x33, 0x34, 0x35, 0x36, 0x37, 0x38, 0x39] = 0x29B1 ∧ crc16 (List.replicate 22 0) = 0x9FB4 ∧
    crcStep 0x0000 0x80 = 0x9188 ∧ crcStep 0x1234 0x56 = 0x3C40 ∧ hdrCsum 0x7E 0x1234 2 3 = 0x0D08 ∧
    hdrCsum 0x7E 0x1234 0x0100 0x0100 = 0x168E := by decide +kernel

/-! ### The transmit path -/

/-- V32: 45 bytes do not fit two frames, and the refusal clears an earlier sequence. -/
theorem test_fmtBegin_refuses :
    endsWith (fmtBegin { fresh with maxf := 2, len := 45, tlen := 50, count := 3, fidx := 1 }) .capacityExceeded
      (fun t => t.count == 0 && t.tlen == 0 && t.fidx == 0) = true := by decide +kernel

/-- V32: the exact multiple fits; the longest length is refused without wrapping. -/
theorem test_fmtBegin_boundaries :
    endsWith (fmtBegin { fresh with maxf := 2, len := 44 }) .ok (fun t => t.count == 2 && t.tlen == 44) = true ∧
    endsWith (fmtBegin { fresh with len := 0xFFFFFFFF }) .capacityExceeded (fun t => t.count == 0) = true := by decide +kernel

/-- The example of 41_formatter.md R124. -/
theorem test_fmtHdr_example :
    endsWith (fmtHdr vp { fresh with count := 3, fidx := 1 }) .ok
      (fun t => t.sflag == 0x7E && t.opc == 0x1234 && t.pkt == 2 && t.exp == 3 && t.eflag == 0x7E && t.csum == 0) = true := by
  decide

/-- V34: one real byte and 21 padding bytes; nothing of the old data field survives. -/
theorem test_fmtLoad_pads :
    endsWith (fmtLoad vp { fresh with pmem := payloadA 23, count := 2, tlen := 23, fidx := 1, data := Vector.replicate 22 0xCC })
      .ok (fun t => t.data == block [0x17]) = true := by decide +kernel

/-- V35: cipher X; without all key bytes nothing is enciphered. -/
theorem test_fmtEnc_vectors :
    endsWith (fmtEnc vp { fresh with data := block [0x61] }) .ok (fun t => t.data == block
      [0x61, 1, 2, 3, 4, 5, 6, 7, 8, 9, 10, 11, 12, 13, 14, 15, 0, 1, 2, 3, 4, 5]) = true ∧
    endsWith (fmtEnc vp { fresh with data := block [0x61], keyw := fresh.keyw.set 15 false }) .noKey
      (fun t => t.data == block [0x61]) = true := by decide +kernel

/-- V36: host-written registers; the old `ACC` does not enter. -/
theorem test_fmtCsum_vector :
    endsWith (fmtCsum { fresh with pkt := 1, exp := 1, acc := 0x5555, data := block [9], eflag := 7 }) .ok
      (fun t => t.acc == 0xD6DF && t.csum == 0xD6DF) = true := by decide +kernel

/-- The registers of V37. -/
def packing : State :=
  { fresh with
    tlen := 1, count := 1, sflag := 0xAA, opc := 0xBBCC, pkt := 0x0102, exp := 0x0304, csum := 0xDEAD, eflag := 0x55
    data := Vector.ofFn fun j : Fin 22 => BitVec.ofNat 8 (0xE0 + j.val) }

/-- The slot of V37, byte by byte. -/
def packedSlot : List Byte :=
  [0xAA, 0xBB, 0xCC, 0x01, 0x02, 0x03, 0x04, 0xE0, 0xE1, 0xE2, 0xE3, 0xE4, 0xE5, 0xE6, 0xE7, 0xE8, 0xE9, 0xEA, 0xEB, 0xEC,
    0xED, 0xEE, 0xEF, 0xF0, 0xF1, 0xF2, 0xF3, 0xF4, 0xF5, 0xDE, 0xAD, 0x55]

theorem test_fmtPack_vector :
    endsWith (fmtPack vp packing) .ok (fun t => t.fmem == bytesAt 0 packedSlot && t.fidx == 1) = true := by decide +kernel

/-- V37: the second `FMT.PACK` has no frame. -/
theorem test_fmtPack_after_last : endsWith (fmtPack vp { packing with fidx := 1 }) .opRange (fun t => t.fmem == []) = true := by
  decide +kernel

/-- The frame of P2 (scenario S1). -/
def slotP2 : List Byte :=
  [0x7E, 0x12, 0x34, 0x00, 0x01, 0x00, 0x01, 0x61, 0x01, 0x02, 0x03, 0x04, 0x05, 0x06, 0x07, 0x08, 0x09, 0x0A, 0x0B, 0x0C,
    0x0D, 0x0E, 0x0F, 0x00, 0x01, 0x02, 0x03, 0x04, 0x05, 0x74, 0x1A, 0x7E]

/-- P2 up to step 4: one payload byte `61`. -/
def sender : State := { fresh with pmem := bytesAt 0 [0x61], len := 1 }

theorem test_frag_P2 :
    endsWith (frag vp sender) .ok (fun t => t.fmem == bytesAt 0 slotP2 && t.count == 1 && t.fidx == 1 && t.acc == 0x741A) = true := by
  decide +kernel

/-- V52: with no key, `FRAG` leaves frame 0 unencrypted in the registers and writes no slot. -/
theorem test_frag_without_key :
    endsWith (frag vp { sender with keyw := Vector.replicate 16 false }) .noKey
      (fun t => t.fmem == [] && t.data == block [0x61] && t.count == 1 && t.fidx == 0 && t.pkt == 1 && t.csum == 0) = true := by
  decide +kernel

/-! ### The receive path -/

/-- The example of 42_deformatter.md R154. -/
theorem test_dfmBegin_example :
    endsWith (dfmBegin { fresh with nfr := 3, ctrl := 2, rxlen := 50, fidx := 2, outlen := 9 }) .ok
      (fun t => t.fidx == 0 && t.outlen == 0) = true ∧
    endsWith (dfmBegin { fresh with nfr := 3, ctrl := 2, rxlen := 44 }) .truncationAmbiguous (fun t => t.outlen == 0) = true := by
  decide

/-- V40: any 32 bytes unpack; slot 1. -/
theorem test_dfmUnpack_vector :
    endsWith (dfmUnpack vp { fresh with fmem := bytesAt 32 packedSlot, nfr := 2, fidx := 1 }) .ok
      (fun t => t.fields == packing.fields && t.fidx == 1) = true := by decide +kernel

/-- V41, rows 1 to 4: where both conditions fail, the checksum is reported. -/
theorem test_dfmCheck_vectors :
    endsWith (dfmCheck { fresh with sflag := 0x7E, opc := 0x1234, pkt := 1, exp := 1, csum := 0x741A, nfr := 1 }) .ok
      (fun t => t.acc == 0x741A) = true ∧
    endsWith (dfmCheck { fresh with sflag := 0x7E, opc := 0x1234, pkt := 1, exp := 1, csum := 0x741A, nfr := 2 })
      .sequenceIncomplete (fun t => t.acc == 0x741A) = true ∧
    endsWith (dfmCheck { fresh with sflag := 0x7E, opc := 0x1234, pkt := 1, exp := 1, csum := 0x741B, nfr := 2 })
      .checksumMismatch (fun t => t.acc == 0x741A) = true := by decide +kernel

/-- The example of 42_deformatter.md R157. -/
theorem test_dfmDec_example :
    endsWith (dfmDec vp { fresh with data := block [0x61, 1, 2, 3, 4, 5, 6, 7, 8, 9, 10, 11, 12, 13, 14, 15, 0, 1, 2, 3, 4, 5] })
      .ok (fun t => t.data == block [0x61]) = true := by decide +kernel

/-- The last of three frames, as V42 prepares it. -/
def lastOfThree : State := { fresh with nfr := 3, fidx := 2, outlen := 44 }

/-- V42: the last frame in `EXPLICIT` mode. -/
theorem test_dfmStore_explicit :
    endsWith (dfmStore vp { lastOfThree with ctrl := 2, rxlen := 50, data := block [0x2D, 0x2E, 0x2F, 0x30, 0x31, 0x32, 0x99] })
      .ok
      (fun t => t.pmem == bytesAt 44 [0x2D, 0x2E, 0x2F, 0x30, 0x31, 0x32] && t.outlen == 50 && t.fidx == 3) = true ∧
    endsWith (dfmStore vp { lastOfThree with ctrl := 2, rxlen := 67 }) .truncationAmbiguous
      (fun t => t.pmem == [] && t.outlen == 44 && t.fidx == 2) = true := by decide +kernel

/-- V42: the first zero byte ends the last frame in `ZSCAN` mode; `n = 0` still advances. -/
theorem test_dfmStore_zscan :
    endsWith (dfmStore vp { lastOfThree with ctrl := 1, data := block [1, 2, 0, 4, 5, 0, 7] }) .ok
      (fun t => t.pmem == bytesAt 44 [1, 2] && t.outlen == 46 && t.fidx == 3) = true ∧
    endsWith (dfmStore vp { lastOfThree with ctrl := 1, data := block [0, 2] }) .ok
      (fun t => t.pmem == [] && t.outlen == 44 && t.fidx == 3) = true := by decide +kernel

/-- P2 up to step 8: the frame, and `PM[0] = 00`. -/
def receiver : State :=
  { fresh with fmem := bytesAt 0 slotP2, pmem := bytesAt 0 [0x00], nfr := 1, rxlen := 1, ctrl := 2, count := 1, tlen := 1, len := 1 }

theorem test_defrag_P2 :
    endsWith (defrag vp receiver) .ok
      (fun t => t.pmem == bytesAt 0 [0x61] && t.outlen == 1 && t.fidx == 1 && t.data == block [0x61] && t.acc == 0x741A) = true := by
  decide +kernel

/-- V53: without a key the checksum of a changed frame is still reported first. -/
theorem test_defrag_priority :
    endsWith (defrag vp { receiver with fmem := bytesAt 0 (slotP2.set 2 0xB4), keyw := Vector.replicate 16 false })
      .checksumMismatch (fun t => t.fidx == 0 && t.outlen == 0 && t.pmem == bytesAt 0 [0x00]) = true ∧
    endsWith (defrag vp { receiver with keyw := Vector.replicate 16 false }) .noKey (fun t => t.acc == 0x741A) = true := by
  decide +kernel

/-! ### The host interface (V54) -/

theorem test_host_writes :
    (regStore vp fresh (regOfNumber 0x07) 100).maxf = 16 ∧ (regStore vp fresh (regOfNumber 0x08) 0x10010).nfr = 16 ∧
    (regStore vp fresh (regOfNumber 0x08) 0x10000).nfr = 0 ∧ (regStore vp fresh (regOfNumber 0x02) 0xFF).ctrl = 3 ∧
    (regStore vp fresh (regOfNumber 0x03) 0x1FFFFFFFF).len = 0xFFFFFFFF ∧
    regStore vp fresh (regOfNumber 0x0C) 0x1234 = fresh ∧ regStore vp fresh (regOfNumber 0x36) 5 = fresh ∧
    (regStore vp fresh (regOfNumber 0x35) 0x77).data[21] = 0x77 := by decide +kernel

theorem test_host_reads :
    regValue fresh (regOfNumber 0x45) = 0 ∧ regValue fresh (regOfNumber 0x00) = 0 ∧ regValue fresh (regOfNumber 0xFF) = 0 ∧
    regValue fresh (regOfNumber 0x0B) = 0x1234 ∧ regValue fresh (regOfNumber 0x01) = 0x40 := by decide +kernel

/-- V60: reset values. -/
theorem test_reset_values :
    (State.resetOf vp).maxf = 16 ∧ (State.resetOf vp).acc = 0xFFFF ∧ statusWord (State.resetOf vp) = 0x00 := by decide +kernel

/-! ### The machine's own parameters: one command as the first after reset -/

theorem test_step_runs_crcUpd :
    next? (step (State.reset.withFetchWord 16 0x1161)) (fun t => t.acc == 0x9D77 && t.todo == []) = true := by decide +kernel

theorem test_step_runs_frag_on_reset :
    next? (step (State.reset.withFetchWord 16 0x2F00)) (fun t => t.err == 0 && t.count == 0) = true := by decide +kernel

/-! ### Witnesses: for each statement with hypotheses, a state and operands that meet them all

Where a witness is about the machine's own parameters it uses one slot, which every `NSLOT` has. -/

/-- One frame of one byte to send or to receive; all key bytes written; explicit length 1. -/
def oneFrame : State :=
  { State.reset with
    len := 1, tlen := 1, count := 1, maxf := 1, nfr := 1, keyw := Vector.replicate 16 true, ctrl := 2, rxlen := 1 }

/-- A frame that passes its check with `NFR = 1`: header `00 00 00 00 01 00 01`, checksum `D6DF` (V16). -/
def goodSlot : Memory := bytesAt 0 ([0, 0, 0, 0, 1, 0, 1] ++ List.replicate 22 0 ++ [0xD6, 0xDF, 0])

/-- A frame of 32 zero bytes: its checksum is `F1CE` (V13), not the stored 0. -/
def badSlot : Memory := bytesAt 0 (List.replicate 32 0)

/-- The invariants of a state with one frame, whatever `NSLOT` is. -/
theorem inv_small (p : Params) (s : State)
    (h : s.maxf.toNat ≤ 1 ∧ s.nfr = 1 ∧ s.count = 1 ∧ s.tlen = 1 ∧ s.fidx = 0 ∧ s.outlen = 0 ∧ s.pmem = [] ∧
      s.ctrl &&& ~~~ctrlMask = 0)
    (hm : s.fmem.wf ∧ ∀ c ∈ s.fmem, c.1 < 32) : Inv p s := by
  have h1 := nslot_pos p
  obtain ⟨hx, hn, hc, ht, hf, ho, hp, hr⟩ := h
  have hps := pmemSize_eq p
  have hfs := fmemSize_eq p
  refine ⟨by omega, ?_, ?_, ?_, ?_, ?_, ?_, hr, ?_, hm.1, ?_, fun c h => ?_⟩
  · rw [hn]; simpa using h1
  · rw [hc, ht]; rfl
  · rw [hc]; simpa using h1
  · rw [ht]; simp; omega
  · rw [hf]; simp
  · rw [ho]; simp
  · rw [hp]; exact List.Pairwise.nil
  · rw [hp]; simp
  · have := hm.2 c h; omega

theorem test_witness_DecodeReadsExactlyTheEncodedCommand :
    (Instr.crcUpd 0xFF).wellFormed = true ∧ decode 0x11FF = .ok (.crcUpd 0xFF) ∧ (0x11FF : Half) = encode (.crcUpd 0xFF) := by
  decide

theorem test_witness_DecodeFollowsTheMatchMaskTable :
    decode 0x1100 = .ok (.crcUpd 0x00) ∧ (0x11FF : Half) &&& Instr.rowMask (.crcUpd 0) = Instr.rowMatch (.crcUpd 0) ∧
    (0x11FF : Half) &&& Instr.rowMask (.crcUpd 9) = Instr.rowMatch (.crcUpd 9) := by decide

/-- Both cases of 30_encoding.md R84 as the next action. -/
theorem test_witness_IllegalWordsAreExactlyR84AndOnlyRecordCode5 :
    { State.reset with todo := [.command 0x3500] }.todo = [HostAction.command 0x3500] ∧
    decode 0x3500 = .error (.unassignedCode 0x35) ∧
    { State.reset with todo := [.command 0x2001] }.todo = [HostAction.command 0x2001] ∧
    decode 0x2001 = .error (.operandNotZero 0x20 0x01) := by decide

theorem test_witness_StepRunsTheDecodedCommand :
    { State.reset with todo := [.command 0x3F00] }.todo = [HostAction.command 0x3F00] ∧ decode 0x3F00 = .ok .defrag ∧
    State.reset.todo = [] := by decide

theorem test_witness_CrcDifferenceDependsOnlyOnTheXor :
    [1#8].length = [3#8].length ∧ [4#8].length = [6#8].length ∧
    List.zipWith (· ^^^ ·) [1#8] [3#8] = List.zipWith (· ^^^ ·) [4#8] [6#8] := by decide

theorem test_witness_OneChangedByteChangesTheChecksum : (0x00 : Byte) ≠ 0x80 := by decide

theorem test_witness_OneOrTwoFlippedHeaderBitsChangeTheChecksum :
    (List.replicate 7 0#8).length = 7 ∧ 0 < 56 ∧ 55 < 56 ∧ 0 ≠ 55 := by decide

theorem test_witness_StreamingLeavesCrc16 :
    { State.reset with todo := [.command 0x1000, .command 0x1131] }.todo =
      HostAction.command (encode .crcInit) :: [0x31].map (fun b => HostAction.command (encode (.crcUpd b))) ++ [] := by decide

theorem test_witness_ZeroByteChangesEveryNonzeroAccumulator : (0xFFFF : Half) ≠ 0 := by decide

theorem test_witness_ChunksMakeUpThePayload :
    0 < frameCount 1 ∧ 0 + 1 = frameCount 22 ∧ 0 + 1 < frameCount 23 ∧ 1 < frameCount 23 := by decide

/-- Also the witness of `FmtPackWritesOneSlot`. -/
theorem test_witness_FmtLoadCopiesTheChunkAndPads :
    Inv Config.params oneFrame ∧ oneFrame.fidx.toNat < oneFrame.count.toNat :=
  ⟨inv_small _ _ (by decide) (by decide +kernel), by decide⟩

theorem test_witness_TransmitCommandsWithoutAFrameRecordOpRange :
    State.reset.count.toNat ≤ State.reset.fidx.toNat := by decide

theorem test_witness_FragComputesFragment :
    Inv Config.params oneFrame ∧ keyValid oneFrame = true ∧ (oneFrame.len.toNat + 21) / 22 ≤ oneFrame.maxf.toNat :=
  ⟨inv_small _ _ (by decide) (by decide +kernel), by decide, by decide⟩

/-- One state for each clause: the payload does not fit, there is no key, there is nothing to send. -/
theorem test_witness_FragErrorsLeaveTheFramesUntouched :
    { oneFrame with maxf := 0 }.maxf.toNat < frameCount oneFrame.len.toNat ∧
    (Inv Config.params { oneFrame with keyw := Vector.replicate 16 false } ∧
      keyValid { oneFrame with keyw := Vector.replicate 16 false } = false ∧
      frameCount oneFrame.len.toNat ≤ oneFrame.maxf.toNat ∧ 0 < oneFrame.len.toNat) ∧
    State.reset.len = 0 :=
  ⟨by decide, ⟨inv_small _ _ (by decide) (by decide +kernel), by decide, by decide, by decide⟩, rfl⟩

/-- `FRAG` on the one frame ends with a result 0 and one slot written. -/
theorem test_witness_ProducedFramesObeyTheSequenceLaws :
    ∃ t, Inv Config.params oneFrame ∧ exec .frag oneFrame = .next t ∧ t.err = 0 ∧ 0 < t.count.toNat := by
  have hi : Inv Config.params oneFrame := inv_small _ _ (by decide) (by decide +kernel)
  have hb := fmtBegin_ok oneFrame (by decide)
  have hu := inv_fmtBegin Config.params oneFrame _ _ hi hb
  obtain ⟨t, h1, -, -, -, -, -, h2⟩ := fragLoop_spec Config.params 1 _ hu (by decide) (by decide) (by decide)
  refine ⟨writeBack .ok t, hi, ?_, rfl, ?_⟩
  · rw [exec_eq_finish]
    show finish (frag Config.params oneFrame) = _
    unfold frag
    rw [hb, andThen_ok]
    show finish (fragLoop Config.params 1 _) = _
    rw [h1]; rfl
  · have hc : t.count = 1 := by rw [h2]; rfl
    show 0 < t.count.toNat
    rw [hc]; decide

/-- Two states that differ in `ACC` only. -/
theorem test_witness_FragDependsOnlyOnItsInputs :
    Inv Config.params oneFrame ∧ Inv Config.params { oneFrame with acc := 5 } ∧ oneFrame ≠ { oneFrame with acc := 5 } ∧
    ∀ a, a < oneFrame.len.toNat →
      pmemByte Config.params oneFrame a = pmemByte Config.params { oneFrame with acc := 5 } a :=
  ⟨inv_small _ _ (by decide) (by decide +kernel), inv_small _ _ (by decide) (by decide +kernel),
    fun h => absurd (congrArg State.acc h) (by decide), fun _ _ => rfl⟩

theorem test_witness_DfmUnpackReadsTheSlot : Inv Config.params oneFrame ∧ oneFrame.fidx.toNat < oneFrame.nfr.toNat :=
  ⟨inv_small _ _ (by decide) (by decide +kernel), by decide⟩

/-- The last frame in each mode: an explicit length 1, and a data field of 22 zero bytes in `ZSCAN` mode (`n = 0`). -/
theorem test_witness_DfmStoreAppendsTheRealBytes :
    (Inv Config.params oneFrame ∧ ¬oneFrame.fidx.toNat < oneFrame.nfr.toNat - 1 ∧ ¬oneFrame.ctrl.getLsbD 0 = true ∧
      oneFrame.ctrl.getLsbD 1 = true ∧ (oneFrame.rxlen.toNat + 21) / 22 = oneFrame.nfr.toNat ∧
      1 = oneFrame.rxlen.toNat - 22 * (oneFrame.nfr.toNat - 1)) ∧
    (Inv Config.params { oneFrame with ctrl := 1 } ∧ { oneFrame with ctrl := 1 }.ctrl.getLsbD 0 = true ∧
      oneFrame.data[0] = 0) :=
  ⟨⟨inv_small _ _ (by decide) (by decide +kernel), by decide, by decide, by decide, by decide, by decide⟩,
    inv_small _ _ (by decide) (by decide +kernel), by decide, by decide⟩

/-- A frame that is not the last one; two slots, so with the parameters of the vectors. -/
theorem test_witness_DfmStore_first_of_two :
    { fresh with nfr := 2 }.fidx.toNat < { fresh with nfr := 2 }.nfr.toNat - 1 := by decide

/-- No frame at all; and the last frame with an undeclared length. -/
theorem test_witness_ReceiveCommandsThatCannotGoOnWriteNothing :
    State.reset.nfr.toNat ≤ State.reset.fidx.toNat ∧
    ({ oneFrame with ctrl := 0 }.fidx.toNat + 1 = oneFrame.nfr.toNat ∧ { oneFrame with ctrl := 0 }.ctrl.getLsbD 0 = false ∧
      ¬{ oneFrame with ctrl := 0 }.ctrl.getLsbD 1 = true) := by decide

/-- The frame passes its check. -/
theorem test_witness_goodSlot_passes : framePasses Config.params { oneFrame with fmem := goodSlot } 0 := by
  unfold framePasses; decide +kernel

/-- The frame does not pass its check: the hypotheses of `DefragStopsAtTheOffendingFrame` with `k = 0`. -/
theorem test_witness_DefragStopsAtTheOffendingFrame :
    Inv Config.params { oneFrame with fmem := badSlot } ∧ keyValid { oneFrame with fmem := badSlot } = true ∧
    lenOk oneFrame.nfr.toNat (lenMode oneFrame) (lenValid oneFrame.ctrl) oneFrame.rxlen.toNat = true ∧
    0 < oneFrame.nfr.toNat ∧ ¬framePasses Config.params { oneFrame with fmem := badSlot } 0 :=
  ⟨inv_small _ _ (by decide) (by decide +kernel), by decide, by decide, by decide,
    by unfold framePasses; decide +kernel⟩

/-- A sequence that `defragment` recovers, and one it answers with an error. -/
theorem test_witness_DefragComputesDefragment :
    (Inv Config.params { oneFrame with fmem := goodSlot } ∧ keyValid { oneFrame with fmem := goodSlot } = true ∧
      ∃ out, defragment Config.params (framesOf Config.params { oneFrame with fmem := goodSlot }) oneFrame.key
        (lenMode oneFrame) (lenValid oneFrame.ctrl) oneFrame.rxlen.toNat = .ok out) ∧
    (Inv Config.params { oneFrame with ctrl := 0 } ∧ keyValid { oneFrame with ctrl := 0 } = true ∧
      ∃ e, defragment Config.params (framesOf Config.params { oneFrame with ctrl := 0 }) oneFrame.key
        (lenMode { oneFrame with ctrl := 0 }) (lenValid 0) oneFrame.rxlen.toNat = .error e) := by
  refine ⟨⟨inv_small _ _ (by decide) (by decide +kernel), by decide, ?_⟩,
    inv_small _ _ (by decide) (by decide +kernel), by decide, _, rfl⟩
  have hf : framesOf Config.params { oneFrame with fmem := goodSlot } =
      [readSlot Config.params { oneFrame with fmem := goodSlot } 0] := rfl
  obtain ⟨h1, h2⟩ := test_witness_goodSlot_passes
  rw [hf]
  unfold defragment
  rw [if_pos (by decide)]
  unfold defragmentFrom
  rw [if_neg (fun h => h h1), if_neg (fun h => h (congrArg BitVec.toNat h2))]
  exact ⟨_, rfl⟩

/-- A length that cannot be; and a receiver without a key. -/
theorem test_witness_DefragWithoutAKeyStopsAtTheFirstFrame :
    lenOk oneFrame.nfr.toNat (lenMode { oneFrame with ctrl := 0 }) (lenValid 0) oneFrame.rxlen.toNat = false ∧
    (Inv Config.params { oneFrame with keyw := Vector.replicate 16 false } ∧
      keyValid { oneFrame with keyw := Vector.replicate 16 false } = false ∧ 0 < oneFrame.nfr.toNat ∧
      lenOk oneFrame.nfr.toNat (lenMode oneFrame) (lenValid oneFrame.ctrl) oneFrame.rxlen.toNat = true) :=
  ⟨by decide, inv_small _ _ (by decide) (by decide +kernel), by decide, by decide, by decide⟩

/-- Two receivers that differ in `ACC` only. -/
theorem test_witness_DefragDependsOnlyOnItsInputs :
    Inv Config.params oneFrame ∧ Inv Config.params { oneFrame with acc := 5 } ∧
    ∀ a, a < 32 * oneFrame.nfr.toNat →
      fmemByte Config.params oneFrame a = fmemByte Config.params { oneFrame with acc := 5 } a :=
  ⟨inv_small _ _ (by decide) (by decide +kernel), inv_small _ _ (by decide) (by decide +kernel),
    fun _ _ => rfl⟩

/-- Cipher X is its own inverse. -/
theorem cipherX_inverts (k : Key) (d : Block) : vp.dec k (vp.enc k d) = d := by
  apply Vector.ext
  intro j hj
  simp [vp, cipherX]

/-- What the sender of P2 leaves, and the receiver set up from it. -/
def sent : State := match frag vp sender with | .ended t _ => t | .faulted _ => sender

/-- The receiver of a loopback, with slot 0 as given. -/
def loopback (slot : List Byte) : State := { receiver with fmem := bytesAt 0 slot }

/-- The states of P2 meet the invariants. -/
theorem inv_sender : Inv vp sender := by constructor <;> decide +kernel

/-- The receiver meets the invariants, whatever the bytes of its slot. -/
theorem ready_loopback (b : Byte) (hb : b = 0x00 ∨ b = 0x01) :
    ReceiverReady vp sender.len sender.key sent (loopback (slotP2.set 6 b)) := by
  rcases hb with rfl | rfl
  all_goals
    constructor
    case inv => constructor <;> decide +kernel
    all_goals decide +kernel

theorem test_witness_RoundTripRecoversThePayload :
    (∀ k d, vp.dec k (vp.enc k d) = d) ∧ Inv vp sender ∧ keyValid sender = true ∧ sender.len.toNat ≤ 22 * sender.maxf.toNat ∧
    frag vp sender = .ended sent .ok ∧ ReceiverReady vp sender.len sender.key sent (loopback (slotP2.set 6 0x01)) ∧
    (∀ a, a < 32 * sent.count.toNat → fmemByte vp (loopback (slotP2.set 6 0x01)) a = fmemByte vp sent a) :=
  ⟨cipherX_inverts, inv_sender, by decide, by decide, by decide +kernel, ready_loopback _ (.inr rfl), by
    have h : sent.fmem = (loopback (slotP2.set 6 0x01)).fmem ∧ sent.epoch = (loopback (slotP2.set 6 0x01)).epoch := by
      decide +kernel
    intro a _
    exact (fmemByte_congr vp _ _ h.1 h.2 a).symm⟩

/-- The expected count of the frame of P2 is changed on the way (frame 0, offset 6). -/
theorem test_witness_TamperedHeaderIsReportedAtItsFrame :
    Inv vp sender ∧ frag vp sender = .ended sent .ok ∧
    ReceiverReady vp sender.len sender.key sent (loopback (slotP2.set 6 0x00)) ∧ 0 < sent.count.toNat ∧ 6 < 7 ∧
    fmemByte vp (loopback (slotP2.set 6 0x00)) 6 ≠ fmemByte vp sent 6 ∧
    (∀ a, a < 32 * sent.count.toNat → a ≠ 6 → fmemByte vp (loopback (slotP2.set 6 0x00)) a = fmemByte vp sent a) := by
  refine ⟨inv_sender, by decide +kernel, ready_loopback _ (.inl rfl), by decide +kernel, by decide, by decide +kernel, ?_⟩
  have hc : sent.count.toNat = 1 := by decide +kernel
  have h : ∀ a : Fin 32, a.val ≠ 6 → fmemByte vp (loopback (slotP2.set 6 0x00)) a.val = fmemByte vp sent a.val := by
    decide +kernel
  intro a ha hn
  exact h ⟨a, by omega⟩ hn

theorem test_witness_EveryStepKeepsTheInvariants :
    ∃ t, Inv Config.params { oneFrame with todo := [.command 0x3000] } ∧
      step { oneFrame with todo := [.command 0x3000] } = .next t :=
  ⟨_, inv_small _ _ (by decide) (by decide +kernel), rfl⟩

theorem test_witness_InvariantsHoldInEveryRun :
    ∃ t, Host.Core.run core 2 { State.reset with todo := [.regWrite 0x08 7, .command 0x3000] } = .next t := ⟨_, rfl⟩

/-- Also the witness of `EveryCommandEndsWithAResult`: a state with an action that names a byte no memory has. -/
theorem test_witness_OnlyHostAccessesBeyondAMemoryStop :
    Inv Config.params { oneFrame with todo := [.fmRead (65535 * 32)] } ∧ Config.params.nslot * 32 ≤ 65535 * 32 := by
  refine ⟨inv_small _ _ (by decide) (by decide +kernel), ?_⟩
  have := nslot_le Config.params
  omega

/-- Also the witness of `EachCommandHasOnlyItsResults` and `EachRegisterIsWrittenOnlyByItsCommands`: a command that
records an error, and one that clears it. -/
theorem test_witness_StickyErrorKeepsTheFirstCode :
    (∃ t, exec .fmtHdr State.reset = .next t ∧ t.err = 7) ∧ ∃ t, exec .clrerr failed = .next t ∧ t.stkerr = 0 :=
  ⟨⟨_, rfl, by decide⟩, _, rfl, by decide⟩

/-- A `DFM.STORE` that goes on (`ZSCAN`, a data field of zeros), and one that raises. -/
theorem test_witness_FrameIndexAdvancesByOne :
    (∃ t, exec .dfmStore { oneFrame with ctrl := 1 } = .next t ∧ t.err = 0) ∧
    ∃ t, exec .dfmStore State.reset = .next t ∧ t.err ≠ 0 :=
  ⟨⟨_, rfl, by decide⟩, _, rfl, by decide⟩

/-- Byte 0 of `KEY` has been written, the others have not and differ. -/
theorem test_witness_UnwrittenKeyBytesAreUnobservable :
    (Vector.replicate 16 0x55#8).set 0 0 ≠ State.reset.key ∧
    ∀ j (_ : j < 16), { State.reset with keyw := State.reset.keyw.set 0 true }.keyw[j] = true →
      ((Vector.replicate 16 0x55#8).set 0 0)[j] = State.reset.key[j] := by decide

/-- A next action for each statement about host accesses. -/
theorem test_witness_host_access_statements :
    { State.reset with todo := [.regRead 0x35] }.todo = HostAction.regRead 0x35 :: [] ∧
    { State.reset with todo := [.regWrite 0x4F 256] }.todo = HostAction.regWrite 0x4F 256 :: [] ∧
    { State.reset with todo := [.reset] }.todo = HostAction.reset :: [] := ⟨rfl, rfl, rfl⟩

/-- Which clauses of `RegReadReturnsTheNumberedRegister` speak of register number `n`: the eighteen single registers but
`CMD`, the data field, the numbers that read 0. -/
def readClauses (n : Nat) : List Bool :=
  ([0x01, 0x02, 0x03, 0x04, 0x05, 0x06, 0x07, 0x08, 0x09, 0x0A, 0x0B, 0x0C, 0x10, 0x11, 0x12, 0x13, 0x14, 0x15].map fun k =>
    decide (n = k)) ++
  [decide (0x20 ≤ n ∧ n < 0x20 + 22),
    decide (n = 0x00 ∨ (0x0D ≤ n ∧ n ≤ 0x0F) ∨ (0x16 ≤ n ∧ n ≤ 0x1F) ∨ 0x36 ≤ n)]

/-- Which clauses of `RegWriteStoresTheReducedValue` speak of register number `n`. -/
def writeClauses (n : Nat) : List Bool :=
  ([0x02, 0x03, 0x07, 0x08, 0x09, 0x0B, 0x10, 0x11, 0x12, 0x13, 0x14, 0x15].map fun k => decide (n = k)) ++
  [decide (0x20 ≤ n ∧ n < 0x20 + 22), decide (0x40 ≤ n ∧ n < 0x40 + 16),
    decide (n ∈ [0x01, 0x04, 0x05, 0x06, 0x0A, 0x0C] ∨ (0x0D ≤ n ∧ n ≤ 0x0F) ∨ (0x16 ≤ n ∧ n ≤ 0x1F) ∨
      (0x36 ≤ n ∧ n ≤ 0x3F) ∨ 0x50 ≤ n)]

/-- Every register number falls under exactly one clause (for writes: every number but `CMD`), so the clauses meet nowhere. -/
theorem test_witness_register_clauses_partition :
    ((List.range 256).all fun n => (readClauses n).count true == 1) = true ∧
    ((List.range 256).all fun n => (writeClauses n).count true == if n = 0 then 0 else 1) = true := by decide +kernel

/-- The ends of each range of numbers, and the register there. -/
theorem test_witness_register_range_ends :
    regOfNumber 0x20 = .data 0 ∧ regOfNumber 0x35 = .data 21 ∧ regOfNumber 0x40 = .key 0 ∧ regOfNumber 0x4F = .key 15 ∧
    regOfNumber 0x0D = .reserved ∧ regOfNumber 0x0F = .reserved ∧ regOfNumber 0x16 = .reserved ∧
    regOfNumber 0x1F = .reserved ∧ regOfNumber 0x36 = .reserved ∧ regOfNumber 0x3F = .reserved ∧
    regOfNumber 0x50 = .reserved ∧ regOfNumber 0xFF = .reserved := by decide

/-- A host access that is no command answers a next state. -/
theorem test_witness_OnlyCommandsChangeTheErrorFields :
    ∃ t, step { State.reset with todo := [.regWrite 0x01 0xFF] } = .next t ∧ HostAction.regWrite 0x01 0xFF ≠ .reset ∧
      ∀ v, HostAction.regWrite 0x01 0xFF ≠ .regWrite 0x00 v :=
  ⟨_, rfl, by decide, fun v h => absurd h (by simp)⟩

theorem test_witness_HostByteWritesAreReadBack :
    { State.reset with todo := [.pmWrite 21 7, .pmRead 21] }.todo = [HostAction.pmWrite 21 7, .pmRead 21] ∧
    21 < Config.params.nslot * 22 ∧
    { State.reset with todo := [.fmWrite 31 7, .fmRead 31] }.todo = [HostAction.fmWrite 31 7, .fmRead 31] ∧
    31 < Config.params.nslot * 32 := by
  have := nslot_pos Config.params
  exact ⟨rfl, by omega, rfl, by omega⟩

end Sys2Proof.Tests
end

section
/-! PROOFS. The registers of the block and the host's access to them (10_state.md sections 5 to 8). First what the proofs
share: one step by its action, the decoder on the commands' words, the register numbers, the register values. -/

namespace Sys2Proof.Machine

open Sys2Proof.Safety

/-! ### One step, by the host's next action -/

theorem step_of_todo_nil (s : State) (h : s.todo = []) : step s = .next s := by
  unfold step; rw [h]

theorem step_of_todo_cons (s : State) (a : HostAction) (rest : List HostAction) (h : s.todo = a :: rest) :
    step s = hostStep Config.params a (s.setTodo rest) := by
  unfold step; rw [h]

/-- A write to `CMD` runs the word written (10_state.md R26). -/
theorem step_of_command (s : State) (w : Half) (rest : List HostAction) (h : s.todo = HostAction.command w :: rest) :
    step s = issue w (s.setTodo rest) := by
  have hw : BitVec.ofNat 16 w.toNat = w := by simp
  rw [step_of_todo_cons s _ rest h]
  show issue (BitVec.ofNat 16 w.toNat) _ = _
  rw [hw]

theorem issue_of_decode_ok (w : Half) (i : Instr) (s : State) (h : decode w = .ok i) : issue w s = exec i s := by
  unfold issue; rw [h]

/-! ### The decoder on the words of the commands -/

theorem codeField_encode_crcUpd (b : Byte) : codeField (encode (.crcUpd b)) = 0x11 := by
  apply BitVec.eq_of_getLsbD_eq
  intro j hj
  interval_cases j <;> simp [codeField, encode, Instr.rowMatch]

theorem lowField_encode_crcUpd (b : Byte) : lowField (encode (.crcUpd b)) = b := by
  apply BitVec.eq_of_getLsbD_eq
  intro j hj
  interval_cases j <;> simp [lowField, encode, Instr.rowMatch]

/-- The decoder reads every command from its own word (30_encoding.md R83, R86). -/
theorem decode_encode (i : Instr) : decode (encode i) = .ok i := by
  cases i with
  | crcUpd b => simp only [decode, codeField_encode_crcUpd, lowField_encode_crcUpd, if_true]
  | _ => rfl

/-! ### The register numbers (10_state.md R38)

The map of the numbers is a table of 256 entries, so these four facts are looked up in it. -/

theorem regOfNumber_eq_cmd_iff : ∀ n : Byte, regOfNumber n = .cmd ↔ n = 0x00 := by decide

theorem regOfNumber_of_reserved : ∀ n : Byte,
    (0x0D ≤ n.toNat ∧ n.toNat ≤ 0x0F) ∨ (0x16 ≤ n.toNat ∧ n.toNat ≤ 0x1F) ∨ (0x36 ≤ n.toNat ∧ n.toNat ≤ 0x3F) ∨
      0x50 ≤ n.toNat → regOfNumber n = .reserved := by decide

theorem regOfNumber_dataNumber : ∀ j : Fin 22, regOfNumber (BitVec.ofNat 8 (0x20 + j)) = .data j := by decide

theorem regOfNumber_keyNumber : ∀ j : Fin 16, regOfNumber (BitVec.ofNat 8 (0x40 + j)) = .key j := by decide

theorem regOfNumber_of_data (n : Byte) (j : Nat) (hj : j < 22) (h : n.toNat = 0x20 + j) :
    regOfNumber n = .data ⟨j, hj⟩ := by
  rw [← regOfNumber_dataNumber ⟨j, hj⟩, ← h, BitVec.ofNat_toNat, BitVec.setWidth_eq]

theorem regOfNumber_of_key (n : Byte) (j : Nat) (hj : j < 16) (h : n.toNat = 0x40 + j) :
    regOfNumber n = .key ⟨j, hj⟩ := by
  rw [← regOfNumber_keyNumber ⟨j, hj⟩, ← h, BitVec.ofNat_toNat, BitVec.setWidth_eq]

/-- A number from `0x36` on is a key byte's or reserved, so it reads 0 (10_state.md R38). -/
theorem regValue_of_high (s : State) (n : Byte) (h : 0x36 ≤ n.toNat) : regValue s (regOfNumber n) = 0 := by
  by_cases hk : 0x40 ≤ n.toNat ∧ n.toNat ≤ 0x4F
  · rw [regOfNumber_of_key n (n.toNat - 0x40) (by omega) (by omega)]; rfl
  · rw [regOfNumber_of_reserved n (by omega)]; rfl

/-! ### The values of the registers -/

/-- Taking an action off the host's list changes no register. -/
@[simp] theorem regValue_setTodo (s : State) (rest : List HostAction) (r : Reg) :
    regValue (s.setTodo rest) r = regValue s r := by
  cases r <;> rfl

/-- `KEYV` is 1 exactly when all sixteen key bytes have been written (10_state.md R23). -/
theorem keyValid_iff (s : State) : keyValid s = true ↔ ∀ j (_ : j < 16), s.keyw[j] = true := by
  simp [keyValid, Vector.all_eq_true]

/-- The four parts of `STATUS`, over all their values. -/
theorem statusParts_toNat : ∀ (v : Bool) (k e : BitVec 3),
    ((0#1 ++ BitVec.ofBool v) ++ (k ++ e) : Byte).toNat = e.toNat + 8 * k.toNat + (if v = true then 64 else 0) := by decide

/-- The `STATUS` word as a number (10_state.md R27). -/
theorem statusWord_toNat (s : State) :
    (statusWord s).toNat = s.err.toNat + 8 * s.stkerr.toNat + (if keyValid s = true then 64 else 0) :=
  statusParts_toNat (keyValid s) s.stkerr s.err

/-- Bit 7 of `STATUS` is 0 (10_state.md R27). -/
theorem statusWord_bit7 (s : State) : (statusWord s).getLsbD 7 = false := by
  have he := s.err.isLt
  have hk := s.stkerr.isLt
  refine Nat.testBit_lt_two_pow ?_
  rw [statusWord_toNat]
  split <;> omega

/-- The two bits that `CTRL` keeps are the value modulo 4 (10_state.md R28). -/
theorem and_ctrlMask (v : Nat) : BitVec.ofNat 8 v &&& ctrlMask = BitVec.ofNat 8 (v % 4) := by
  apply BitVec.eq_of_toNat_eq
  have := Nat.and_two_pow_sub_one_eq_mod (v % 256) 2
  simp [ctrlMask] at this ⊢
  omega

theorem clampSlots_ofNat (p : Params) (v : Nat) :
    clampSlots p (BitVec.ofNat 16 v) = BitVec.ofNat 16 (min (v % 65536) p.nslot) := by
  simp [clampSlots]

/-- A register write never touches the error fields (10_state.md R27). -/
@[simp] theorem regStore_err (p : Params) (s : State) (r : Reg) (v : Nat) : (regStore p s r v).err = s.err := by
  cases r <;> rfl

@[simp] theorem regStore_stkerr (p : Params) (s : State) (r : Reg) (v : Nat) : (regStore p s r v).stkerr = s.stkerr := by
  cases r <;> rfl

/-- A write to any number but `CMD` stores, whatever the value (10_state.md R39). -/
theorem regWrite_of_ne_cmd (p : Params) (n : Byte) (v : Nat) (s : State) (h : n ≠ 0x00) :
    regWrite p n v s = .next (regStore p s (regOfNumber n) v) := by
  unfold regWrite; rw [if_neg (mt (regOfNumber_eq_cmd_iff n).1 h)]

theorem regWrite_cmd (p : Params) (v : Nat) (s : State) : regWrite p 0x00 v s = issue (BitVec.ofNat 16 v) s := rfl

/-! ### The register statements -/

/-- Settles O5. -/
theorem stepRunsTheDecodedCommand : Obligations.StepRunsTheDecodedCommand := by
  unfold Obligations.StepRunsTheDecodedCommand
  refine ⟨fun s w i rest h hw => ?_, fun s i => ?_, step_of_todo_nil⟩
  · rw [step_of_command s w rest h, issue_of_decode_ok w i _ hw]; rfl
  · have hword : BitVec.ofNat 16 ((encode i).toNat % 2 ^ 16) = encode i := by
      rw [Nat.mod_eq_of_lt (encode i).isLt, BitVec.ofNat_toNat, BitVec.setWidth_eq]
    rw [step_of_command _ (encode i) s.todo (by rw [State.withFetchWord, hword]; rfl),
      issue_of_decode_ok _ i _ (decode_encode i)]
    rfl

/-- Settles O53: the value returned is `regValue` of the number's register. -/
theorem regReadReturnsTheNumberedRegister : Obligations.RegReadReturnsTheNumberedRegister := by
  unfold Obligations.RegReadReturnsTheNumberedRegister
  intro s n rest h
  have hstep : step s = .next ((s.setTodo rest).returned (regValue s (regOfNumber n))) := by
    rw [step_of_todo_cons s _ rest h]; simp only [hostStep, regValue_setTodo]
  refine ⟨regValue s (regOfNumber n), hstep, ?status, ?_, ?_, ?_, ?_, ?_, ?_, ?_, ?_, ?_, ?_, ?_, ?_, ?_, ?_, ?_,
    ?_, ?_, ?data, ?zero⟩
  case status => rintro rfl; simp only [← keyValid_iff]; exact statusWord_toNat s
  case data => intro j hj hn; rw [regOfNumber_of_data n j hj hn]; rfl
  case zero =>
    rintro (rfl | hn | hn | hn)
    · rfl
    · rw [regOfNumber_of_reserved n (.inl hn)]; rfl
    · rw [regOfNumber_of_reserved n (.inr (.inl hn))]; rfl
    · exact regValue_of_high s n hn
  all_goals rintro rfl; rfl

/-- Settles O54: the number is looked up and the register stores the reduced value. -/
theorem regWriteStoresTheReducedValue : Obligations.RegWriteStoresTheReducedValue := by
  unfold Obligations.RegWriteStoresTheReducedValue
  intro s n v rest h
  have hstep (hn : n ≠ 0x00) : step s = .next (regStore Config.params (s.setTodo rest) (regOfNumber n) v) := by
    rw [step_of_todo_cons s _ rest h]; exact regWrite_of_ne_cmd _ n v _ hn
  refine ⟨?ctrl, ?_, ?maxf, ?nfr, ?_, ?_, ?_, ?_, ?_, ?_, ?_, ?_, ?data, ?key, ?ignored⟩
  case ctrl => rintro rfl; rw [hstep (by decide), ← and_ctrlMask]; rfl
  case maxf | nfr => rintro rfl; rw [hstep (by decide), ← clampSlots_ofNat]; rfl
  case data => intro j hj hn; rw [hstep (by rintro rfl; simp at hn; omega), regOfNumber_of_data n j hj hn]; rfl
  case key => intro j hj hn; rw [hstep (by rintro rfl; simp at hn; omega), regOfNumber_of_key n j hj hn]; rfl
  case ignored =>
    rintro (hn | hn)
    · simp only [List.mem_cons, List.not_mem_nil, or_false] at hn
      rcases hn with rfl | rfl | rfl | rfl | rfl | rfl <;> exact hstep (by decide)
    · rw [hstep (by rintro rfl; simp at hn), regOfNumber_of_reserved n hn]; rfl
  all_goals rintro rfl; exact hstep (by decide)

/-- Settles O55, by the kind of access: reads and byte accesses leave the registers, register writes store. -/
theorem onlyCommandsChangeTheErrorFields : Obligations.OnlyCommandsChangeTheErrorFields := by
  unfold Obligations.OnlyCommandsChangeTheErrorFields
  refine ⟨fun s t a rest h hreset hcmd hstep => ?_, fun s n v rest h => ?_⟩
  · rw [step_of_todo_cons s a rest h] at hstep
    cases a with
    | regRead n => cases hstep; exact ⟨rfl, rfl⟩
    | regWrite n v =>
      have hn : n ≠ 0x00 := fun hn => hcmd v (by rw [hn])
      rw [show hostStep _ (.regWrite n v) _ = regWrite _ n v _ from rfl, regWrite_of_ne_cmd _ n v _ hn] at hstep
      cases hstep
      simp
    | pmRead a | pmWrite a b | fmRead a | fmWrite a b =>
      simp only [hostStep] at hstep
      split at hstep <;> cases hstep
      exact ⟨rfl, rfl⟩
    | reset => exact absurd rfl hreset
  · rcases h with h | ⟨h, hn⟩
    · exact ⟨_, step_of_todo_cons s _ rest h⟩
    · exact ⟨_, (step_of_todo_cons s _ rest h).trans (regWrite_of_ne_cmd _ n v _ hn)⟩

/-- Settles O57. -/
theorem resetLeavesTheSpecifiedValues : Obligations.ResetLeavesTheSpecifiedValues := by
  unfold Obligations.ResetLeavesTheSpecifiedValues
  have hkeyw : ∀ j (_ : j < 16), State.reset.keyw[j] = false := by simp [State.reset, State.resetOf]
  have hkeyv : keyValid State.reset = false := by
    rw [Bool.eq_false_iff, ne_eq, keyValid_iff]
    intro h
    have := (hkeyw 0 (by decide)).symm.trans (h 0 (by decide))
    cases this
  have hmaxf : State.reset.maxf.toNat = Config.params.nslot := by
    have := nslot_le Config.params
    simp [State.reset, State.resetOf]; omega
  have hdata : ∀ j (_ : j < 22), State.reset.data[j] = 0 := by simp [State.reset, State.resetOf]
  exact ⟨rfl, rfl, hkeyw, hkeyv, rfl, rfl, rfl, rfl, rfl, rfl, rfl, rfl, hmaxf, rfl, rfl, rfl, rfl, rfl, rfl, rfl, rfl,
    hdata⟩

end Sys2Proof.Machine
end

section
/-! PROOFS. Which state each command writes, and what every step keeps (10_state.md sections 2 to 8). What a
body may write is said once; the write lists and the invariants are read off it. -/

namespace Sys2Proof.Machine

open Sys2Proof.Safety

/-! ### What each command leaves unchanged -/

/-- `t` differs from `s` only in state that command `i` may write (10_state.md R21 to R41), result fields apart. -/
structure WritesOnly (i : Instr) (s t : State) : Prop where
  key : t.key = s.key
  keyw : t.keyw = s.keyw
  ctrl : t.ctrl = s.ctrl
  len : t.len = s.len
  maxf : t.maxf = s.maxf
  nfr : t.nfr = s.nfr
  rxlen : t.rxlen = s.rxlen
  opcfg : t.opcfg = s.opcfg
  epoch : t.epoch = s.epoch
  todo : t.todo = s.todo
  seen : t.seen = s.seen
  transmit : i ∉ [.fmtBegin, .frag] → t.tlen = s.tlen ∧ t.count = s.count
  fidx : i ∉ [.fmtBegin, .fmtPack, .frag, .dfmBegin, .dfmStore, .defrag] → t.fidx = s.fidx
  outlen : i ∉ [.dfmBegin, .dfmStore, .defrag] → t.outlen = s.outlen
  pmem : i ∉ [.dfmStore, .defrag] → t.pmem = s.pmem
  fmem : i ∉ [.fmtPack, .frag] → t.fmem = s.fmem
  acc : (∀ b, i ≠ .crcUpd b) → i ∉ [.crcInit, .fmtCsum, .dfmCheck, .frag, .defrag] → t.acc = s.acc
  header : i ∉ [.fmtHdr, .dfmUnpack, .frag, .defrag] →
    t.sflag = s.sflag ∧ t.opc = s.opc ∧ t.pkt = s.pkt ∧ t.exp = s.exp ∧ t.eflag = s.eflag
  csum : i ∉ [.fmtCsum, .dfmUnpack, .frag, .defrag] → t.csum = s.csum
  data : i ∉ [.fmtLoad, .fmtEnc, .dfmUnpack, .dfmDec, .frag, .defrag] → t.data = s.data

namespace WritesOnly

theorem refl (i : Instr) (s : State) : WritesOnly i s s := by
  constructor <;> simp

theorem trans {i : Instr} {s t u : State} (h : WritesOnly i s t) (k : WritesOnly i t u) : WritesOnly i s u := by
  constructor <;> grind [WritesOnly]

end WritesOnly

/-- A turn of `FRAG` writes what `FRAG` may write. -/
theorem fragFrame_writesOnly (p : Params) (s t : State) (r : Result) (hf : s.fidx.toNat < s.count.toNat)
    (h : fragFrame p s = .ended t r) : WritesOnly .frag s t := by
  rcases fragFrame_cases p s t r hf h with ⟨-, -, rfl⟩ | ⟨-, -, -, rfl⟩
  · constructor <;> simp
  · constructor <;> simp [fragTurn]

theorem frag_writesOnly (p : Params) (s t : State) (r : Result) (h : frag p s = .ended t r) : WritesOnly .frag s t := by
  refine frag_keeps p (WritesOnly .frag s) (fun a b q ha hb => ha.trans ?_)
    (fun a b q ha hf hb => ha.trans (fragFrame_writesOnly p a b q hf hb)) s t r (.refl _ s) h
  rcases fmtBegin_cases a b q hb with ⟨-, -, rfl⟩ | ⟨-, -, rfl⟩ <;> constructor <;> simp

/-- A turn of `DEFRAG` writes what `DEFRAG` may write. -/
theorem defragFrame_writesOnly (p : Params) (s t : State) (r : Result) (hf : s.fidx.toNat < s.nfr.toNat)
    (h : defragFrame p s = .ended t r) : WritesOnly .defrag s t := by
  obtain ⟨a, c, rfl, rfl, ⟨rfl, -⟩ | ⟨-, -, -, h⟩⟩ := defragFrame_cases p s t r hf h
  · constructor <;> simp
  · rcases dfmStore_cases p _ t r h with ⟨-, -, rfl⟩ | ⟨n, -, -, -, rfl⟩ <;> constructor <;> simp

theorem defrag_writesOnly (p : Params) (s t : State) (r : Result) (h : defrag p s = .ended t r) : WritesOnly .defrag s t := by
  refine defrag_keeps p (WritesOnly .defrag s) (fun a b q ha hb => ha.trans ?_)
    (fun a b q ha hf hb => ha.trans (defragFrame_writesOnly p a b q hf hb)) s t r (.refl _ s) h
  obtain ⟨rfl, -⟩ := dfmBegin_cases a b q hb
  constructor <;> simp

/-- Every command's body writes only the state its rule names. -/
theorem bodyOf_writesOnly (p : Params) (i : Instr) (s t : State) (r : Result) (h : bodyOf p i s = .ended t r) :
    WritesOnly i s t := by
  cases i with
  | nop => cases h; exact .refl _ s
  | clrerr | crcInit | crcUpd b | fmtCsum => cases h; constructor <;> simp
  | fmtBegin => rcases fmtBegin_cases s t r h with ⟨-, -, rfl⟩ | ⟨-, -, rfl⟩ <;> constructor <;> simp
  | fmtHdr => rcases fmtHdr_cases p s t r h with ⟨-, -, rfl⟩ | ⟨-, -, rfl⟩ <;> constructor <;> simp
  | fmtLoad => rcases fmtLoad_cases p s t r h with ⟨-, -, rfl⟩ | ⟨-, -, rfl⟩ <;> constructor <;> simp
  | fmtEnc => rcases fmtEnc_cases p s t r h with ⟨-, -, rfl⟩ | ⟨-, -, rfl⟩ <;> constructor <;> simp
  | fmtPack => rcases fmtPack_cases p s t r h with ⟨-, -, rfl⟩ | ⟨-, -, -, rfl⟩ <;> constructor <;> simp
  | frag => exact frag_writesOnly p s t r h
  | dfmBegin => obtain ⟨rfl, -⟩ := dfmBegin_cases s t r h; constructor <;> simp
  | dfmUnpack => rcases dfmUnpack_cases p s t r h with ⟨-, -, rfl⟩ | ⟨-, -, rfl⟩ <;> constructor <;> simp
  | dfmCheck => obtain ⟨rfl, -⟩ := dfmCheck_cases s t r h; constructor <;> simp
  | dfmDec => rcases dfmDec_cases p s t r h with ⟨-, -, rfl⟩ | ⟨-, -, rfl⟩ <;> constructor <;> simp
  | dfmStore => rcases dfmStore_cases p s t r h with ⟨-, -, rfl⟩ | ⟨n, -, -, -, rfl⟩ <;> constructor <;> simp
  | defrag => exact defrag_writesOnly p s t r h

/-- The write-back touches the result fields only, so a command writes what its body writes. -/
theorem exec_writesOnly (i : Instr) (s t : State) (h : exec i s = .next t) : WritesOnly i s t := by
  obtain ⟨u, r, hb, rfl⟩ := (exec_eq_next i s t).1 h
  exact { bodyOf_writesOnly _ i s u r hb with }

/-- Settles O50: what `WritesOnly` says, field by field. -/
theorem eachRegisterIsWrittenOnlyByItsCommands : Obligations.EachRegisterIsWrittenOnlyByItsCommands := by
  unfold Obligations.EachRegisterIsWrittenOnlyByItsCommands
  intro i s t h
  have f := exec_writesOnly i s t h
  exact ⟨f.key, f.keyw, f.ctrl, f.len, f.maxf, f.nfr, f.rxlen, f.opcfg, f.epoch, f.todo, f.seen, f.transmit, f.fidx,
    f.outlen, f.pmem, f.fmem, f.acc, f.header, f.csum, f.data⟩

/-! ### The frame index -/

/-- Below another 16-bit value, adding 1 does not wrap. -/
theorem toNat_add_one_of_lt (a b : Half) (h : a.toNat < b.toNat) : (a + 1).toNat = a.toNat + 1 := by
  have := b.isLt
  simp; omega

/-- Settles O51: a command that advances `FIDX` has found it below `COUNT` or `NFR`, so it does not wrap. -/
theorem frameIndexAdvancesByOne : Obligations.FrameIndexAdvancesByOne := by
  unfold Obligations.FrameIndexAdvancesByOne
  intro i s t h
  obtain ⟨u, r, hb, rfl⟩ := (exec_eq_next i s t).1 h
  rw [writeBack_fidx, writeBack_err, ne_eq, code_eq_zero_iff]
  refine ⟨?_, ?_⟩
  · rintro (rfl | rfl)
    · rcases fmtBegin_cases s u r hb with ⟨-, -, rfl⟩ | ⟨-, -, rfl⟩ <;> rfl
    · obtain ⟨rfl, -⟩ := dfmBegin_cases s u r hb; rfl
  · rintro (rfl | rfl)
    · rcases fmtPack_cases _ s u r hb with ⟨rfl, -, rfl⟩ | ⟨rfl, hlt, -, rfl⟩
      · exact ⟨fun h => absurd h (by decide), fun _ => rfl⟩
      · exact ⟨fun _ => toNat_add_one_of_lt s.fidx s.count hlt, fun h => absurd rfl h⟩
    · rcases dfmStore_cases _ s u r hb with ⟨hr, -, rfl⟩ | ⟨n, rfl, hn, -, rfl⟩
      · exact ⟨fun h => absurd h hr, fun _ => rfl⟩
      · exact ⟨fun _ => toNat_add_one_of_lt s.fidx s.nfr (storeCount_ok s n hn).1, fun h => absurd rfl h⟩

/-! ### The invariants -/

/-- The reset values meet the invariants, whatever the open parameters are (10_state.md R43, R44). -/
theorem inv_resetOf (p : Params) : Inv p (State.resetOf p) := by
  have := nslot_le p
  constructor <;> simp [State.resetOf, Memory.wf]
  omega

/-- Every body keeps the invariants: it leaves the registers they speak of, or is one of the six with a law of its own. -/
theorem inv_bodyOf (p : Params) (i : Instr) (s t : State) (r : Result) (hs : Inv p s)
    (h : bodyOf p i s = .ended t r) : Inv p t := by
  have hf := bodyOf_writesOnly p i s t r h
  cases i with
  | fmtBegin => exact inv_fmtBegin p s t r hs h
  | fmtPack =>
    rcases fmtPack_cases p s t r h with ⟨-, -, rfl⟩ | ⟨-, hlt, -, rfl⟩
    · exact hs
    · exact inv_advancePacked p s hs hlt s.fields
  | frag =>
    exact frag_keeps p (Inv p) (fun a b q => inv_fmtBegin p a b q) (fun a b q => inv_fragFrame p a b q) s t r hs h
  | dfmBegin => exact inv_dfmBegin p s t r hs h
  | dfmStore => exact inv_dfmStore p s t r hs h
  | defrag =>
    exact defrag_keeps p (Inv p) (fun a b q => inv_dfmBegin p a b q) (fun a b q => inv_defragFrame p a b q) s t r hs h
  | _ =>
    obtain ⟨htlen, hcount⟩ := hf.transmit (by simp)
    exact inv_congr p s t hs hf.maxf hf.nfr hcount htlen (hf.fidx (by simp)) (hf.outlen (by simp)) hf.ctrl
      (hf.pmem (by simp)) (hf.fmem (by simp))

theorem inv_exec (i : Instr) (s t : State) (hs : Inv Config.params s) (h : exec i s = .next t) : Inv Config.params t := by
  obtain ⟨u, r, hb, rfl⟩ := (exec_eq_next i s t).1 h
  exact inv_writeBack _ r u (inv_bodyOf _ i s u r hs hb)

/-- A word written to `CMD` keeps the invariants, legal or not. -/
theorem inv_issue (w : Half) (s t : State) (hs : Inv Config.params s) (h : issue w s = .next t) : Inv Config.params t := by
  rcases (issue_eq_next w s t).1 h with ⟨i, -, hi⟩ | ⟨e, -, rfl⟩
  · exact inv_exec i s t hs hi
  · exact inv_writeBack _ _ s hs

theorem inv_regWrite (n : Byte) (v : Nat) (s t : State) (hs : Inv Config.params s)
    (h : regWrite Config.params n v s = .next t) : Inv Config.params t := by
  by_cases hn : n = 0x00
  · subst hn; exact inv_issue _ s t hs h
  · rw [regWrite_of_ne_cmd _ n v s hn] at h
    cases h
    exact inv_regStore _ s _ v hs

/-- A byte written below the size of `PMEM` keeps its canonical form and its range (20_memory.md R69). -/
theorem inv_pmemWrite (p : Params) (s : State) (a : Nat) (b : Byte) (hs : Inv p s) (ha : a < p.pmemSize) :
    Inv p { s with pmem := s.pmem.write a b } :=
  { hs with
    pmem_wf := wf_write _ a b hs.pmem_wf
    pmem_range := fun c hc => by
      rcases mem_of_mem_write _ a b c hc with rfl | hc
      · exact ha
      · exact hs.pmem_range c hc }

/-- A byte written below the size of `FMEM` keeps its canonical form and its range (20_memory.md R69). -/
theorem inv_fmemWrite (p : Params) (s : State) (a : Nat) (b : Byte) (hs : Inv p s) (ha : a < p.fmemSize) :
    Inv p { s with fmem := s.fmem.write a b } :=
  { hs with
    fmem_wf := wf_write _ a b hs.fmem_wf
    fmem_range := fun c hc => by
      rcases mem_of_mem_write _ a b c hc with rfl | hc
      · exact ha
      · exact hs.fmem_range c hc }

/-- The invariants are about the block, not about the host's own lists (logs 1, 2). -/
theorem inv_host (p : Params) (s : State) (e : Nat) (todo : List HostAction) (seen : List Nat) (hs : Inv p s) :
    Inv p { s with epoch := e, todo := todo, seen := seen } :=
  inv_congr p s _ hs rfl rfl rfl rfl rfl rfl rfl rfl rfl

/-- Every host action keeps the invariants. -/
theorem inv_hostStep (a : HostAction) (s t : State) (hs : Inv Config.params s)
    (h : hostStep Config.params a s = .next t) : Inv Config.params t := by
  cases a with
  | regRead n => cases h; exact inv_host _ s _ _ _ hs
  | regWrite n v => exact inv_regWrite n v s t hs h
  | pmRead a | fmRead a =>
    simp only [hostStep] at h
    split at h <;> cases h
    exact inv_host _ s _ _ _ hs
  | pmWrite a b =>
    simp only [hostStep] at h
    split at h <;> cases h
    exact inv_pmemWrite _ s a b hs ‹_›
  | fmWrite a b =>
    simp only [hostStep] at h
    split at h <;> cases h
    exact inv_fmemWrite _ s a b hs ‹_›
  | reset => cases h; exact inv_host _ _ _ _ _ (inv_resetOf _)

theorem inv_step (s t : State) (hs : Inv Config.params s) (h : step s = .next t) : Inv Config.params t := by
  cases htodo : s.todo with
  | nil =>
    rw [step_of_todo_nil s htodo] at h
    cases h
    exact hs
  | cons a rest =>
    rw [step_of_todo_cons s a rest htodo] at h
    exact inv_hostStep a _ t (inv_host _ s s.epoch rest s.seen hs) h

/-- A run of `n + 1` steps is a step that answers a next state, then a run of `n` steps from there. -/
theorem run_succ_eq_next (n : Nat) (s t : State) (h : Host.Core.run core (n + 1) s = .next t) :
    ∃ u, step s = .next u ∧ Host.Core.run core n u = .next t := by
  have hcore : core.step s = step s := rfl
  simp only [Host.Core.run, hcore] at h
  cases hone : step s with
  | next u => exact ⟨u, rfl, by simpa only [hone] using h⟩
  | fault f => simp only [hone, reduceCtorEq] at h
  | refused q => simp only [hone, reduceCtorEq] at h

/-- What one step keeps, a run of any length keeps. -/
theorem run_keeps (P : State → Prop) (hstep : ∀ s t, P s → step s = .next t → P t) (n : Nat) (s t : State) (hs : P s)
    (h : Host.Core.run core n s = .next t) : P t := by
  induction n generalizing s with
  | zero => cases h; exact hs
  | succ n ih =>
    obtain ⟨u, hone, hrest⟩ := run_succ_eq_next n s t h
    exact ih u (hstep s u hs hone) hrest

/-- The bits of `CTRL` that do not exist are 0 under the invariants (10_state.md R28). -/
theorem ctrl_getLsbD (p : Params) (s : State) (hs : Inv p s) (b : Nat) (hb : 2 ≤ b) : s.ctrl.getLsbD b = false := by
  by_cases h8 : b < 8
  · have h := congrArg (fun v : Byte => v.getLsbD b) hs.ctrl_reserved
    simp only [ctrlMask] at h
    interval_cases b <;> simpa using h
  · exact BitVec.getLsbD_of_ge _ b (by omega)

/-- Settles O43. -/
theorem resetMeetsTheInvariants : Obligations.ResetMeetsTheInvariants := inv_resetOf Config.params

/-- Settles O44: by the host's action, and a command by its body. -/
theorem everyStepKeepsTheInvariants : Obligations.EveryStepKeepsTheInvariants := inv_step

/-- Settles O45: the invariants hold at reset and every step keeps them; then each clause is read off. -/
theorem invariantsHoldInEveryRun : Obligations.InvariantsHoldInEveryRun := by
  unfold Obligations.InvariantsHoldInEveryRun
  intro actions n t h
  have hreset : Inv Config.params { State.reset with todo := actions } := inv_host _ _ 0 actions [] (inv_resetOf _)
  have ht : Inv Config.params t := run_keeps _ inv_step n _ t hreset h
  have hsize : Config.params.pmemSize = 22 * Config.params.nslot := by rw [pmemSize_eq, Nat.mul_comm]
  exact ⟨ht.maxf_le, ht.nfr_le, ht.count_eq.trans (frameCount_eq _), ht.count_le, hsize ▸ ht.tlen_le, ht.fidx_le,
    hsize ▸ ht.outlen_le, statusWord_bit7 t, ctrl_getLsbD _ t ht⟩

end Sys2Proof.Machine
end

section
/-! PROOFS. Key bytes that have not been written cannot be observed (10_state.md R42, R44). A block with a whole key has
no such byte. Without a whole key no body reads `KEY`: the one reader, the cipher, raises `NoKey` first. -/

namespace Sys2Proof.Machine

open Sys2Proof.Safety

/-! ### Two blocks that differ in `KEY` -/

/-- The block with another content of `KEY`. -/
def State.withKey (s : State) (k : Key) : State := { s with key := k }

/-- The end of a body with another content of `KEY`. -/
def Ran.withKey (k : Key) : Ran → Ran
  | .ended s r => .ended (s.withKey k) r
  | .faulted f => .faulted f

/-- `k` agrees with `KEY` on every byte that has been written since reset. -/
def KeyAgrees (s : State) (k : Key) : Prop := ∀ j (_ : j < 16), s.keyw[j] = true → k[j] = s.key[j]

/-- Two outcomes that differ at most in key bytes that have not been written. -/
def SameUpToKey (x y : Host.Outcome State Fault Refusal) : Prop :=
  (∃ t k, x = .next t ∧ y = .next (t.withKey k) ∧ KeyAgrees t k) ∨ (∃ f, x = .fault f ∧ y = .fault f) ∨
    (∃ q, x = .refused q ∧ y = .refused q)

@[simp] theorem keyValid_withKey (s : State) (k : Key) : keyValid (s.withKey k) = keyValid s := rfl

theorem sameUpToKey_next (t : State) (k : Key) (h : KeyAgrees t k) : SameUpToKey (.next t) (.next (t.withKey k)) :=
  .inl ⟨t, k, rfl, rfl, h⟩

theorem sameUpToKey_refl (x : Host.Outcome State Fault Refusal) : SameUpToKey x x := by
  cases x with
  | next t => exact sameUpToKey_next t t.key fun _ _ _ => rfl
  | fault f => exact .inr (.inl ⟨f, rfl, rfl⟩)
  | refused q => exact .inr (.inr ⟨q, rfl, rfl⟩)

/-- With all sixteen bytes written, agreement is equality. -/
theorem withKey_eq_self (s : State) (k : Key) (hv : keyValid s = true) (h : KeyAgrees s k) : s.withKey k = s := by
  have : k = s.key := Vector.ext fun j hj => h j hj ((keyValid_iff s).1 hv j hj)
  subst this; rfl

theorem withKey_ite (k : Key) (c : Prop) [Decidable c] (x y : Ran) :
    (if c then x else y).withKey k = if c then x.withKey k else y.withKey k := apply_ite _ c x y

theorem withKey_withPmemSpan (k : Key) (p : Params) (base n : Nat) (x : Ran) :
    (withPmemSpan p base n x).withKey k = withPmemSpan p base n (x.withKey k) := apply_ite _ _ _ _

theorem withKey_withFmemSpan (k : Key) (p : Params) (base n : Nat) (x : Ran) :
    (withFmemSpan p base n x).withKey k = withFmemSpan p base n (x.withKey k) := apply_ite _ _ _ _

/-! ### Bodies that do not read `KEY` without a whole key -/

/-- Without a whole key the body takes no notice of `KEY`, and leaves the block without a whole key. -/
structure KeyBlind (f : State → Ran) : Prop where
  commutes : ∀ s k, keyValid s = false → f (s.withKey k) = (f s).withKey k
  unkeyed : ∀ s t r, keyValid s = false → f s = .ended t r → keyValid t = false

/-- No body sets a written flag, so only the first half is left to show. -/
theorem keyBlind_of_commutes (p : Params) (i : Instr)
    (h : ∀ s k, keyValid s = false → bodyOf p i (s.withKey k) = (bodyOf p i s).withKey k) : KeyBlind (bodyOf p i) :=
  ⟨h, fun s t r hv hb => by rw [keyValid_congr s t (bodyOf_writesOnly p i s t r hb).keyw, hv]⟩

namespace KeyBlind

theorem done : KeyBlind done :=
  ⟨fun _ _ _ => rfl, fun s t r hv h => by cases h; exact hv⟩

theorem andThen {f g : State → Ran} (hf : KeyBlind f) (hg : KeyBlind g) : KeyBlind fun s => (f s).andThen g where
  commutes s k hv := by
    show (f (s.withKey k)).andThen g = ((f s).andThen g).withKey k
    rw [hf.commutes s k hv]
    cases hfs : f s with
    | faulted e => rfl
    | ended t r =>
      by_cases hr : r = .ok
      · subst hr; exact hg.commutes t k (hf.unkeyed s t .ok hv hfs)
      · rw [andThen_of_ne_ok t r g hr]; exact andThen_of_ne_ok _ r g hr
  unkeyed s t r hv h := by
    rcases (andThen_eq_ended _ _ _ _).1 h with ⟨-, h1⟩ | ⟨a, h1, h2⟩
    · exact hf.unkeyed s t r hv h1
    · exact hg.unkeyed a t r (hf.unkeyed s a .ok hv h1) h2

/-- A loop's test reads no key. -/
theorem ite {f g : State → Ran} (c : State → Prop) [DecidablePred c] (hc : ∀ s k, c (s.withKey k) ↔ c s)
    (hf : KeyBlind f) (hg : KeyBlind g) : KeyBlind fun s => if c s then f s else g s where
  commutes s k hv := by
    show (if c (s.withKey k) then f (s.withKey k) else g (s.withKey k)) = (if c s then f s else g s).withKey k
    simp only [hc, hf.commutes s k hv, hg.commutes s k hv, withKey_ite]
  unkeyed s t r hv h := by
    split at h
    · exact hf.unkeyed s t r hv h
    · exact hg.unkeyed s t r hv h

/-- A loop whose number of turns is read from the state, and not from the key. -/
theorem fuel {f : Nat → State → Ran} (m : State → Nat) (hm : ∀ s k, m (s.withKey k) = m s) (hf : ∀ n, KeyBlind (f n)) :
    KeyBlind fun s => f (m s) s :=
  ⟨fun s k hv => by simp only [hm]; exact (hf _).commutes s k hv, fun s t r hv h => (hf _).unkeyed s t r hv h⟩

end KeyBlind

theorem keyBlind_fmtBegin : KeyBlind fmtBegin :=
  keyBlind_of_commutes Config.params .fmtBegin fun s k _ => by simp only [bodyOf, fmtBegin, withKey_ite]; rfl

theorem keyBlind_fmtHdr (p : Params) : KeyBlind (fmtHdr p) :=
  keyBlind_of_commutes p .fmtHdr fun s k _ => by simp only [bodyOf, fmtHdr, withKey_ite]; rfl

theorem keyBlind_fmtLoad (p : Params) : KeyBlind (fmtLoad p) :=
  keyBlind_of_commutes p .fmtLoad fun s k _ => by
    simp only [bodyOf, fmtLoad, withKey_ite, withKey_withPmemSpan]; rfl

/-- The cipher is not reached: `FMT.ENC` raises `NoKey` (41_formatter.md R126). -/
theorem keyBlind_fmtEnc (p : Params) : KeyBlind (fmtEnc p) :=
  keyBlind_of_commutes p .fmtEnc fun s k hv => by simp [bodyOf, fmtEnc, hv, Ran.withKey]

theorem keyBlind_fmtCsum : KeyBlind fmtCsum := keyBlind_of_commutes Config.params .fmtCsum fun _ _ _ => rfl

theorem keyBlind_fmtPack (p : Params) : KeyBlind (fmtPack p) :=
  keyBlind_of_commutes p .fmtPack fun s k _ => by
    simp only [bodyOf, fmtPack, withKey_ite, withKey_withFmemSpan]; rfl

theorem keyBlind_fragFrame (p : Params) : KeyBlind (fragFrame p) :=
  (keyBlind_fmtHdr p).andThen <| (keyBlind_fmtLoad p).andThen <| (keyBlind_fmtEnc p).andThen <|
    keyBlind_fmtCsum.andThen (keyBlind_fmtPack p)

theorem keyBlind_fragLoop (p : Params) (n : Nat) : KeyBlind (fragLoop p n) := by
  induction n with
  | zero => exact .done
  | succ n ih => exact .ite _ (fun _ _ => Iff.rfl) ((keyBlind_fragFrame p).andThen ih) .done

theorem keyBlind_frag (p : Params) : KeyBlind (frag p) :=
  keyBlind_fmtBegin.andThen (.fuel _ (fun _ _ => rfl) (keyBlind_fragLoop p))

theorem keyBlind_dfmBegin : KeyBlind dfmBegin :=
  keyBlind_of_commutes Config.params .dfmBegin fun s k _ => by simp only [bodyOf, dfmBegin, withKey_ite]; rfl

theorem keyBlind_dfmUnpack (p : Params) : KeyBlind (dfmUnpack p) :=
  keyBlind_of_commutes p .dfmUnpack fun s k _ => by
    simp only [bodyOf, dfmUnpack, withKey_ite, withKey_withFmemSpan]; rfl

theorem keyBlind_dfmCheck : KeyBlind dfmCheck :=
  keyBlind_of_commutes Config.params .dfmCheck fun s k _ => by simp only [bodyOf, dfmCheck, withKey_ite]; rfl

/-- The cipher is not reached: `DFM.DEC` raises `NoKey` (42_deformatter.md R157). -/
theorem keyBlind_dfmDec (p : Params) : KeyBlind (dfmDec p) :=
  keyBlind_of_commutes p .dfmDec fun s k hv => by simp [bodyOf, dfmDec, hv, Ran.withKey]

theorem keyBlind_dfmStore (p : Params) : KeyBlind (dfmStore p) :=
  keyBlind_of_commutes p .dfmStore fun s k _ => by
    have hcount : storeCount (s.withKey k) = storeCount s := rfl
    simp only [bodyOf, dfmStore, hcount]
    cases storeCount s with
    | error e => rfl
    | ok n => simp only [withKey_withPmemSpan]; rfl

theorem keyBlind_defragFrame (p : Params) : KeyBlind (defragFrame p) :=
  (keyBlind_dfmUnpack p).andThen <| keyBlind_dfmCheck.andThen <| (keyBlind_dfmDec p).andThen (keyBlind_dfmStore p)

theorem keyBlind_defragLoop (p : Params) (n : Nat) : KeyBlind (defragLoop p n) := by
  induction n with
  | zero => exact .done
  | succ n ih => exact .ite _ (fun _ _ => Iff.rfl) ((keyBlind_defragFrame p).andThen ih) .done

theorem keyBlind_defrag (p : Params) : KeyBlind (defrag p) :=
  keyBlind_dfmBegin.andThen (.fuel _ (fun _ _ => rfl) (keyBlind_defragLoop p))

/-- Without a whole key, no command takes notice of `KEY`. -/
theorem keyBlind_bodyOf (p : Params) (i : Instr) : KeyBlind (bodyOf p i) := by
  cases i with
  | nop | clrerr | crcInit | crcUpd b => exact keyBlind_of_commutes p _ fun _ _ _ => rfl
  | fmtBegin => exact keyBlind_fmtBegin
  | fmtHdr => exact keyBlind_fmtHdr p
  | fmtLoad => exact keyBlind_fmtLoad p
  | fmtEnc => exact keyBlind_fmtEnc p
  | fmtCsum => exact keyBlind_fmtCsum
  | fmtPack => exact keyBlind_fmtPack p
  | frag => exact keyBlind_frag p
  | dfmBegin => exact keyBlind_dfmBegin
  | dfmUnpack => exact keyBlind_dfmUnpack p
  | dfmCheck => exact keyBlind_dfmCheck
  | dfmDec => exact keyBlind_dfmDec p
  | dfmStore => exact keyBlind_dfmStore p
  | defrag => exact keyBlind_defrag p

/-! ### Commands, host actions and steps -/

/-- A command changes neither `KEY` nor the written flags, so agreement lasts. -/
theorem keyAgrees_of_writesOnly (i : Instr) (s t : State) (k : Key) (h : KeyAgrees s k) (hf : WritesOnly i s t) :
    KeyAgrees t k := by
  unfold KeyAgrees; rw [hf.key, hf.keyw]; exact h

theorem sameUpToKey_exec (i : Instr) (s : State) (k : Key) (h : KeyAgrees s k) :
    SameUpToKey (exec i s) (exec i (s.withKey k)) := by
  cases hv : keyValid s with
  | true => rw [withKey_eq_self s k hv h]; exact sameUpToKey_refl _
  | false =>
    rw [exec_eq_finish, exec_eq_finish, (keyBlind_bodyOf _ i).commutes s k hv]
    cases hb : bodyOf Config.params i s with
    | ended t r =>
      exact sameUpToKey_next (writeBack r t) k (keyAgrees_of_writesOnly i s t k h (bodyOf_writesOnly _ i s t r hb))
    | faulted f => exact sameUpToKey_refl (.fault f)

theorem sameUpToKey_issue (w : Half) (s : State) (k : Key) (h : KeyAgrees s k) :
    SameUpToKey (issue w s) (issue w (s.withKey k)) := by
  unfold issue
  cases decode w with
  | ok i => exact sameUpToKey_exec i s k h
  | error e => exact sameUpToKey_next (writeBack .illegalCommand s) k h

/-- Writing a key byte writes the same byte into both keys and marks it written; any other register write leaves the keys. -/
theorem regStore_withKey (p : Params) (s : State) (r : Reg) (v : Nat) (k : Key) (h : KeyAgrees s k) :
    ∃ k', regStore p (s.withKey k) r v = (regStore p s r v).withKey k' ∧ KeyAgrees (regStore p s r v) k' := by
  cases r with
  | key j =>
    refine ⟨k.set j.val (BitVec.ofNat 8 v), rfl, fun i hi hw => ?_⟩
    by_cases hij : j.val = i
    · subst hij; simp [regStore]
    · simp only [regStore, Vector.getElem_set_ne _ _ hij] at hw ⊢
      exact h i hi hw
  | _ => exact ⟨k, rfl, h⟩

theorem sameUpToKey_regWrite (n : Byte) (v : Nat) (s : State) (k : Key) (h : KeyAgrees s k) :
    SameUpToKey (regWrite Config.params n v s) (regWrite Config.params n v (s.withKey k)) := by
  by_cases hn : n = 0x00
  · subst hn; exact sameUpToKey_issue _ s k h
  · obtain ⟨k', heq, hk'⟩ := regStore_withKey Config.params s (regOfNumber n) v k h
    rw [regWrite_of_ne_cmd _ n v s hn, regWrite_of_ne_cmd _ n v _ hn, heq]
    exact sameUpToKey_next _ k' hk'

/-- `KEY` is write-only: no register reads it (10_state.md R23). -/
@[simp] theorem regValue_withKey (s : State) (k : Key) (r : Reg) : regValue (s.withKey k) r = regValue s r := by
  cases r <;> rfl

theorem sameUpToKey_hostStep (a : HostAction) (s : State) (k : Key) (h : KeyAgrees s k) :
    SameUpToKey (hostStep Config.params a s) (hostStep Config.params a (s.withKey k)) := by
  cases a with
  | regRead n =>
    simp only [hostStep, regValue_withKey]
    exact sameUpToKey_next (s.returned _) k h
  | regWrite n v => exact sameUpToKey_regWrite n v s k h
  | pmRead a | pmWrite a b | fmRead a | fmWrite a b =>
    simp only [hostStep]
    split
    · exact sameUpToKey_next _ k h
    · exact sameUpToKey_refl _
  | reset => exact sameUpToKey_refl (.next (resetBlock Config.params s))

/-- Settles O52: by the host's action, a command by whether the block has a whole key. -/
theorem unwrittenKeyBytesAreUnobservable : Obligations.UnwrittenKeyBytesAreUnobservable := by
  unfold Obligations.UnwrittenKeyBytesAreUnobservable
  intro s k h
  show SameUpToKey (step s) (step (s.withKey k))
  cases htodo : s.todo with
  | nil =>
    rw [step_of_todo_nil s htodo, step_of_todo_nil (s.withKey k) htodo]
    exact sameUpToKey_next s k h
  | cons a rest =>
    rw [step_of_todo_cons s a rest htodo, step_of_todo_cons (s.withKey k) a rest htodo]
    exact sameUpToKey_hostStep a (s.setTodo rest) k h

end Sys2Proof.Machine
end

section
/-! PROOFS. The memories and the wire layout (20_memory.md): `pack` and `unpack` undo each other, a byte the host writes
is read back, and under the invariants no command forms an address beyond a memory. -/

namespace Sys2Proof.Machine

open Sys2Proof.Safety

/-! ### The wire layout, both ways (20_memory.md R62 to R65) -/

/-- The three 2-byte fields and the start flag are read back from the header bytes (20_memory.md R63). -/
theorem unpack_pack_header (x : Fields) :
    (unpack (pack x)).sflag = x.sflag ∧ (unpack (pack x)).opc = x.opc ∧ (unpack (pack x)).pkt = x.pkt ∧
      (unpack (pack x)).exp = x.exp := by
  simp only [unpack, pack_header, Nat.reduceLT, headerBytes, enc16, List.cons_append, List.nil_append,
    List.getElem_cons_zero, List.getElem_cons_succ, dec16_enc16, and_self]

theorem unpack_pack_data (x : Fields) : (unpack (pack x)).data = x.data := by
  apply Vector.ext
  intro j hj
  simp only [unpack, Vector.getElem_ofFn, pack_data x j hj]

theorem unpack_pack_tail (x : Fields) : (unpack (pack x)).csum = x.csum ∧ (unpack (pack x)).eflag = x.eflag := by
  obtain ⟨hhigh, hlow, hflag⟩ := pack_tail x
  simp only [unpack, hhigh, hlow, hflag, dec16_enc16, and_self]

theorem unpack_pack (x : Fields) : unpack (pack x) = x := by
  obtain ⟨hsflag, hopc, hpkt, hexp⟩ := unpack_pack_header x
  obtain ⟨hcsum, heflag⟩ := unpack_pack_tail x
  have hdata := unpack_pack_data x
  calc unpack (pack x)
      = ⟨(unpack (pack x)).sflag, (unpack (pack x)).opc, (unpack (pack x)).pkt, (unpack (pack x)).exp,
          (unpack (pack x)).data, (unpack (pack x)).csum, (unpack (pack x)).eflag⟩ := rfl
    _ = x := by rw [hsflag, hopc, hpkt, hexp, hdata, hcsum, heflag]

/-- A frame keeps its header bytes through its fields (20_memory.md R63). -/
theorem pack_unpack_header (f : Frame) (o : Nat) (ho : o < 7) : (pack (unpack f))[o] = f[o] := by
  rw [pack_header _ o ho]
  simp only [headerBytes_unpack]
  interval_cases o <;> rfl

theorem pack_unpack_data (f : Frame) (j : Nat) (hj : j < 22) : (pack (unpack f))[7 + j] = f[7 + j] := by
  rw [pack_data _ j hj]
  simp only [unpack, Vector.getElem_ofFn]

theorem pack_unpack_tail (f : Frame) :
    (pack (unpack f))[29] = f[29] ∧ (pack (unpack f))[30] = f[30] ∧ (pack (unpack f))[31] = f[31] := by
  obtain ⟨hhigh, hlow, hflag⟩ := pack_tail (unpack f)
  exact ⟨hhigh.trans (dec16_high _ _), hlow.trans (dec16_low _ _), hflag⟩

/-- By the part of the frame the offset lies in: header, data field, or checksum and end flag. -/
theorem pack_unpack (f : Frame) : pack (unpack f) = f := by
  apply Vector.ext
  intro o ho
  rcases (by omega : o < 7 ∨ (7 ≤ o ∧ o < 29) ∨ o = 29 ∨ o = 30 ∨ o = 31) with h | ⟨h7, h29⟩ | rfl | rfl | rfl
  · exact pack_unpack_header f o h
  · obtain ⟨j, rfl⟩ := Nat.exists_eq_add_of_le h7
    exact pack_unpack_data f j (by omega)
  · exact (pack_unpack_tail f).1
  · exact (pack_unpack_tail f).2.1
  · exact (pack_unpack_tail f).2.2

/-- Settles O30. -/
theorem unpackAndPackAreInverse : Obligations.UnpackAndPackAreInverse := ⟨unpack_pack, pack_unpack⟩

/-! ### Host byte accesses (20_memory.md R69, R71) -/

theorem pmemByte_write_same (p : Params) (s t : State) (a : Nat) (b : Byte) (hm : t.pmem = s.pmem.write a b) :
    pmemByte p t a = b := by
  unfold pmemByte
  rw [hm, lookup_write, if_pos rfl, Option.getD_some]

theorem pmemByte_write_of_ne (p : Params) (s t : State) (a : Nat) (b : Byte) (x : Nat) (hx : x ≠ a)
    (hm : t.pmem = s.pmem.write a b) (he : t.epoch = s.epoch) : pmemByte p t x = pmemByte p s x := by
  unfold pmemByte
  rw [hm, he, lookup_write, if_neg hx]

theorem fmemByte_write_same (p : Params) (s t : State) (a : Nat) (b : Byte) (hm : t.fmem = s.fmem.write a b) :
    fmemByte p t a = b := by
  unfold fmemByte
  rw [hm, lookup_write, if_pos rfl, Option.getD_some]

theorem fmemByte_write_of_ne (p : Params) (s t : State) (a : Nat) (b : Byte) (x : Nat) (hx : x ≠ a)
    (hm : t.fmem = s.fmem.write a b) (he : t.epoch = s.epoch) : fmemByte p t x = fmemByte p s x := by
  unfold fmemByte
  rw [hm, he, lookup_write, if_neg hx]

theorem step_of_pmRead (s : State) (a : Nat) (b : Byte) (rest : List HostAction) (h : s.todo = .pmRead a :: rest)
    (ha : a < Config.params.pmemSize) (hb : pmemByte Config.params s a = b) :
    step s = .next ((s.setTodo rest).returned b.toNat) := by
  subst hb
  exact (step_of_todo_cons s _ rest h).trans (if_pos ha)

theorem step_of_pmWrite (s : State) (a : Nat) (b : Byte) (rest : List HostAction) (h : s.todo = .pmWrite a b :: rest)
    (ha : a < Config.params.pmemSize) :
    step s = .next { s.setTodo rest with pmem := s.pmem.write a b } :=
  (step_of_todo_cons s _ rest h).trans (if_pos ha)

theorem step_of_fmRead (s : State) (a : Nat) (b : Byte) (rest : List HostAction) (h : s.todo = .fmRead a :: rest)
    (ha : a < Config.params.fmemSize) (hb : fmemByte Config.params s a = b) :
    step s = .next ((s.setTodo rest).returned b.toNat) := by
  subst hb
  exact (step_of_todo_cons s _ rest h).trans (if_pos ha)

theorem step_of_fmWrite (s : State) (a : Nat) (b : Byte) (rest : List HostAction) (h : s.todo = .fmWrite a b :: rest)
    (ha : a < Config.params.fmemSize) :
    step s = .next { s.setTodo rest with fmem := s.fmem.write a b } :=
  (step_of_todo_cons s _ rest h).trans (if_pos ha)

theorem run_two_of_steps (s u t : State) (h : step s = .next u) (k : step u = .next t) :
    Host.Core.run core 2 s = .next t := by
  have hcore : core.step = step := rfl
  simp only [Host.Core.run, hcore, h, k]

/-- A byte of `PMEM` written and read back in two steps. -/
theorem run_pmWrite_pmRead (s : State) (a : Nat) (b : Byte) (rest : List HostAction)
    (h : s.todo = .pmWrite a b :: .pmRead a :: rest) (ha : a < Config.params.pmemSize) :
    Host.Core.run core 2 s =
      .next { s with todo := rest, pmem := s.pmem.write a b, seen := s.seen ++ [b.toNat] } :=
  run_two_of_steps _ _ _ (step_of_pmWrite s a b _ h ha)
    (step_of_pmRead _ a b rest rfl ha (pmemByte_write_same _ s _ a b rfl))

/-- A byte of `FMEM` written and read back in two steps. -/
theorem run_fmWrite_fmRead (s : State) (a : Nat) (b : Byte) (rest : List HostAction)
    (h : s.todo = .fmWrite a b :: .fmRead a :: rest) (ha : a < Config.params.fmemSize) :
    Host.Core.run core 2 s =
      .next { s with todo := rest, fmem := s.fmem.write a b, seen := s.seen ++ [b.toNat] } :=
  run_two_of_steps _ _ _ (step_of_fmWrite s a b _ h ha)
    (step_of_fmRead _ a b rest rfl ha (fmemByte_write_same _ s _ a b rfl))

/-- Settles O56: the state after the two steps, then its bytes by the rules of one written byte. -/
theorem hostByteWritesAreReadBack : Obligations.HostByteWritesAreReadBack := by
  unfold Obligations.HostByteWritesAreReadBack
  intro s a b rest
  refine ⟨fun h ha => ?pmem, fun h ha => ?fmem⟩
  case pmem =>
    exact ⟨_, run_pmWrite_pmRead s a b rest h (pmemSize_eq _ ▸ ha), rfl, pmemByte_write_same _ s _ a b rfl,
      fun x hx => pmemByte_write_of_ne _ s _ a b x hx rfl rfl⟩
  case fmem =>
    exact ⟨_, run_fmWrite_fmRead s a b rest h (fmemSize_eq _ ▸ ha), rfl, fmemByte_write_same _ s _ a b rfl,
      fun x hx => fmemByte_write_of_ne _ s _ a b x hx rfl rfl⟩

/-! ### Under the invariants every body ends (20_memory.md R66, R67) -/

/-- From a state that meets the invariants the body ends, and with them: it forms no address beyond a memory. -/
def EndsUnderInv (p : Params) (f : State → Ran) : Prop := ∀ s, Inv p s → ∃ t r, f s = .ended t r ∧ Inv p t

/-- A body that ends keeps the invariants (`inv_bodyOf`), so only its ending is left to show. -/
theorem endsUnderInv_of_ends (p : Params) (i : Instr) (h : ∀ s, Inv p s → ∃ t r, bodyOf p i s = .ended t r) :
    EndsUnderInv p (bodyOf p i) := by
  intro s hs
  obtain ⟨t, r, hb⟩ := h s hs
  exact ⟨t, r, hb, inv_bodyOf p i s t r hs hb⟩

namespace EndsUnderInv

theorem done (p : Params) : EndsUnderInv p done := fun s hs => ⟨s, .ok, rfl, hs⟩

theorem andThen {p : Params} {f g : State → Ran} (hf : EndsUnderInv p f) (hg : EndsUnderInv p g) :
    EndsUnderInv p fun s => (f s).andThen g := by
  intro s hs
  obtain ⟨t, r, hft, ht⟩ := hf s hs
  simp only [hft]
  by_cases hr : r = .ok
  · subst hr; exact hg t ht
  · exact ⟨t, r, andThen_of_ne_ok t r g hr, ht⟩

theorem ite {p : Params} {f g : State → Ran} (c : State → Prop) [DecidablePred c] (hf : EndsUnderInv p f)
    (hg : EndsUnderInv p g) : EndsUnderInv p fun s => if c s then f s else g s := by
  intro s hs
  by_cases hc : c s
  · simp only [if_pos hc]; exact hf s hs
  · simp only [if_neg hc]; exact hg s hs

end EndsUnderInv

theorem endsUnderInv_fmtBegin (p : Params) : EndsUnderInv p fmtBegin :=
  endsUnderInv_of_ends p .fmtBegin fun s _ => fmtBegin_ends s

theorem endsUnderInv_fmtHdr (p : Params) : EndsUnderInv p (fmtHdr p) :=
  endsUnderInv_of_ends p .fmtHdr fun s _ => by
    simp only [bodyOf, fmtHdr]; split <;> exact ⟨_, _, rfl⟩

/-- A frame of the sequence has its chunk in `PMEM` (20_memory.md R67). -/
theorem endsUnderInv_fmtLoad (p : Params) : EndsUnderInv p (fmtLoad p) :=
  endsUnderInv_of_ends p .fmtLoad fun s hs => by
    simp only [bodyOf, fmtLoad]
    split
    · exact ⟨_, _, rfl⟩
    · have hcount := hs.count_le
      have hlen : chunkLen s.tlen.toNat s.fidx.toNat ≤ 22 := min_le_left _ _
      have hspan := chunk_in_pmem p s.fidx.toNat _ (by omega) hlen
      exact ⟨_, _, withPmemSpan_of_ok _ _ _ _ (.inr hspan)⟩

theorem endsUnderInv_fmtEnc (p : Params) : EndsUnderInv p (fmtEnc p) :=
  endsUnderInv_of_ends p .fmtEnc fun s _ => by
    simp only [bodyOf, fmtEnc]; split <;> exact ⟨_, _, rfl⟩

theorem endsUnderInv_fmtCsum (p : Params) : EndsUnderInv p fmtCsum :=
  endsUnderInv_of_ends p .fmtCsum fun s _ => ⟨_, _, fmtCsum_eq s⟩

/-- A frame of the sequence has its slot in `FMEM` (20_memory.md R66). -/
theorem endsUnderInv_fmtPack (p : Params) : EndsUnderInv p (fmtPack p) :=
  endsUnderInv_of_ends p .fmtPack fun s hs => by
    simp only [bodyOf, fmtPack]
    split
    · exact ⟨_, _, rfl⟩
    · have hcount := hs.count_le
      have hspan := slot_in_fmem p s.fidx.toNat (by omega)
      exact ⟨_, _, withFmemSpan_of_ok _ _ _ _ (.inr hspan)⟩

theorem endsUnderInv_fragFrame (p : Params) : EndsUnderInv p (fragFrame p) :=
  (endsUnderInv_fmtHdr p).andThen <| (endsUnderInv_fmtLoad p).andThen <| (endsUnderInv_fmtEnc p).andThen <|
    (endsUnderInv_fmtCsum p).andThen (endsUnderInv_fmtPack p)

theorem endsUnderInv_fragLoop (p : Params) (n : Nat) : EndsUnderInv p (fragLoop p n) := by
  induction n with
  | zero => exact .done p
  | succ n ih => exact .ite _ ((endsUnderInv_fragFrame p).andThen ih) (.done p)

theorem endsUnderInv_frag (p : Params) : EndsUnderInv p (frag p) :=
  (endsUnderInv_fmtBegin p).andThen fun s => endsUnderInv_fragLoop p _ s

theorem endsUnderInv_dfmBegin (p : Params) : EndsUnderInv p dfmBegin :=
  endsUnderInv_of_ends p .dfmBegin fun s _ => by
    simp only [bodyOf, dfmBegin]; split <;> exact ⟨_, _, rfl⟩

/-- A received frame has its slot in `FMEM` (20_memory.md R66). -/
theorem endsUnderInv_dfmUnpack (p : Params) : EndsUnderInv p (dfmUnpack p) :=
  endsUnderInv_of_ends p .dfmUnpack fun s hs => by
    by_cases hf : s.fidx.toNat < s.nfr.toNat
    · exact ⟨_, _, dfmUnpack_ok p s hs hf⟩
    · exact ⟨_, _, if_pos (not_lt.1 hf)⟩

theorem endsUnderInv_dfmCheck (p : Params) : EndsUnderInv p dfmCheck :=
  endsUnderInv_of_ends p .dfmCheck fun s _ => ⟨_, dfmCheck_ends s⟩

theorem endsUnderInv_dfmDec (p : Params) : EndsUnderInv p (dfmDec p) :=
  endsUnderInv_of_ends p .dfmDec fun s _ => by
    simp only [bodyOf, dfmDec]; split <;> exact ⟨_, _, rfl⟩

/-- The bytes stored of a received frame lie in its chunk of `PMEM` (20_memory.md R67). -/
theorem endsUnderInv_dfmStore (p : Params) : EndsUnderInv p (dfmStore p) :=
  endsUnderInv_of_ends p .dfmStore fun s hs => by
    simp only [bodyOf, dfmStore]
    cases hn : storeCount s with
    | error e => exact ⟨_, _, rfl⟩
    | ok n =>
      have hfidx := (storeCount_ok s n hn).1
      have hnfr := hs.nfr_le
      have hspan := chunk_in_pmem p s.fidx.toNat n (by omega) (storeCount_le s n hn)
      exact ⟨_, _, withPmemSpan_of_ok _ _ _ _ (.inr hspan)⟩

theorem endsUnderInv_defragFrame (p : Params) : EndsUnderInv p (defragFrame p) :=
  (endsUnderInv_dfmUnpack p).andThen <| (endsUnderInv_dfmCheck p).andThen <|
    (endsUnderInv_dfmDec p).andThen (endsUnderInv_dfmStore p)

theorem endsUnderInv_defragLoop (p : Params) (n : Nat) : EndsUnderInv p (defragLoop p n) := by
  induction n with
  | zero => exact .done p
  | succ n ih => exact .ite _ ((endsUnderInv_defragFrame p).andThen ih) (.done p)

theorem endsUnderInv_defrag (p : Params) : EndsUnderInv p (defrag p) :=
  (endsUnderInv_dfmBegin p).andThen fun s => endsUnderInv_defragLoop p _ s

theorem endsUnderInv_bodyOf (p : Params) (i : Instr) : EndsUnderInv p (bodyOf p i) := by
  cases i with
  | nop | clrerr | crcInit | crcUpd b => exact endsUnderInv_of_ends p _ fun _ _ => ⟨_, _, rfl⟩
  | fmtBegin => exact endsUnderInv_fmtBegin p
  | fmtHdr => exact endsUnderInv_fmtHdr p
  | fmtLoad => exact endsUnderInv_fmtLoad p
  | fmtEnc => exact endsUnderInv_fmtEnc p
  | fmtCsum => exact endsUnderInv_fmtCsum p
  | fmtPack => exact endsUnderInv_fmtPack p
  | frag => exact endsUnderInv_frag p
  | dfmBegin => exact endsUnderInv_dfmBegin p
  | dfmUnpack => exact endsUnderInv_dfmUnpack p
  | dfmCheck => exact endsUnderInv_dfmCheck p
  | dfmDec => exact endsUnderInv_dfmDec p
  | dfmStore => exact endsUnderInv_dfmStore p
  | defrag => exact endsUnderInv_defrag p

/-! ### Commands, host actions and steps under the invariants -/

/-- A command's body ends, so the command answers the write-back (60_exceptions.md R193). -/
theorem exec_answers_next (i : Instr) (s : State) (hs : Inv Config.params s) : ∃ t, exec i s = .next t := by
  obtain ⟨u, r, hb, -⟩ := endsUnderInv_bodyOf Config.params i s hs
  exact ⟨writeBack r u, (exec_eq_next i s _).2 ⟨u, r, hb, rfl⟩⟩

/-- A word written to `CMD` runs its command or is illegal, and an illegal word has a result too (30_encoding.md R84). -/
theorem issue_answers_next (w : Half) (s : State) (hs : Inv Config.params s) : ∃ t, issue w s = .next t := by
  cases hw : decode w with
  | ok i => rw [issue_of_decode_ok w i s hw]; exact exec_answers_next i s hs
  | error e => exact ⟨_, (issue_eq_next w s _).2 (.inr ⟨e, hw, rfl⟩)⟩

theorem regWrite_answers_next (n : Byte) (v : Nat) (s : State) (hs : Inv Config.params s) :
    ∃ t, regWrite Config.params n v s = .next t := by
  by_cases hn : n = 0x00
  · subst hn; exact issue_answers_next _ s hs
  · exact ⟨_, regWrite_of_ne_cmd _ n v s hn⟩

/-- A host action that names no byte beyond a memory answers a next state (20_memory.md R69). -/
theorem hostStep_answers_next (a : HostAction) (s : State) (hs : Inv Config.params s)
    (ha : a.wellFormed Config.params = true) : ∃ t, hostStep Config.params a s = .next t := by
  cases a with
  | regRead n => exact ⟨_, rfl⟩
  | regWrite n v => exact regWrite_answers_next n v s hs
  | pmRead a | pmWrite a b | fmRead a | fmWrite a b => exact ⟨_, if_pos (of_decide_eq_true ha)⟩
  | reset => exact ⟨_, rfl⟩

/-- A host action that names no existing byte is an access to a byte beyond a memory, and refused (93 U2, log 8). -/
theorem hostStep_refused_of_not_wellFormed (p : Params) (a : HostAction) (s : State) (h : a.wellFormed p = false) :
    (∃ x b, (a = .pmRead x ∨ a = .pmWrite x b) ∧ p.pmemSize ≤ x ∧ hostStep p a s = .refused (.hostPmemRange x)) ∨
      (∃ x b, (a = .fmRead x ∨ a = .fmWrite x b) ∧ p.fmemSize ≤ x ∧ hostStep p a s = .refused (.hostFmemRange x)) := by
  cases a with
  | regRead n | regWrite n v | reset => cases h
  | pmRead x =>
    have hx : ¬ x < p.pmemSize := of_decide_eq_false h
    exact .inl ⟨x, 0, .inl rfl, not_lt.1 hx, if_neg hx⟩
  | pmWrite x b =>
    have hx : ¬ x < p.pmemSize := of_decide_eq_false h
    exact .inl ⟨x, b, .inr rfl, not_lt.1 hx, if_neg hx⟩
  | fmRead x =>
    have hx : ¬ x < p.fmemSize := of_decide_eq_false h
    exact .inr ⟨x, 0, .inl rfl, not_lt.1 hx, if_neg hx⟩
  | fmWrite x b =>
    have hx : ¬ x < p.fmemSize := of_decide_eq_false h
    exact .inr ⟨x, b, .inr rfl, not_lt.1 hx, if_neg hx⟩

/-- Settles O47: by whether the host's next action names an existing byte. -/
theorem onlyHostAccessesBeyondAMemoryStop : Obligations.OnlyHostAccessesBeyondAMemoryStop := by
  unfold Obligations.OnlyHostAccessesBeyondAMemoryStop
  intro s hs
  cases htodo : s.todo with
  | nil => exact .inl ⟨s, step_of_todo_nil s htodo⟩
  | cons a rest =>
    rw [step_of_todo_cons s a rest htodo]
    cases ha : a.wellFormed Config.params with
    | true => exact .inl (hostStep_answers_next a _ (inv_host _ s s.epoch rest s.seen hs) ha)
    | false =>
      rcases hostStep_refused_of_not_wellFormed _ a (s.setTodo rest) ha with
        ⟨x, b, hax, hx, href⟩ | ⟨x, b, hax, hx, href⟩
      · exact .inr (.inl ⟨x, b, rest, hax.imp (congrArg (· :: rest)) (congrArg (· :: rest)), pmemSize_eq _ ▸ hx, href⟩)
      · exact .inr (.inr ⟨x, b, rest, hax.imp (congrArg (· :: rest)) (congrArg (· :: rest)), fmemSize_eq _ ▸ hx, href⟩)

end Sys2Proof.Machine
end

section
/-! PROOFS. The encoding of the commands (30_encoding.md section 3): a word is its two fields, the decoder reads exactly the
words of the commands, the rows of the opcode table, and which words are legal. -/

namespace Sys2Proof.Machine

open Sys2Proof.Laws Sys2Proof.Safety

/-! ### A command word is its two fields (30_encoding.md R81) -/

theorem codeField_toNat (w : Half) : (codeField w).toNat = w.toNat / 256 := by
  have hw := w.isLt
  simp only [codeField, BitVec.extractLsb'_toNat, Nat.shiftRight_eq_div_pow]
  omega

theorem lowField_toNat (w : Half) : (lowField w).toNat = w.toNat % 256 := by
  simp [lowField, BitVec.extractLsb'_toNat]

theorem eq_of_fields_eq {w v : Half} (hcode : codeField w = codeField v) (hlow : lowField w = lowField v) : w = v := by
  have hdiv : w.toNat / 256 = v.toNat / 256 := by rw [← codeField_toNat, ← codeField_toNat, hcode]
  have hmod : w.toNat % 256 = v.toNat % 256 := by rw [← lowField_toNat, ← lowField_toNat, hlow]
  apply BitVec.eq_of_toNat_eq
  rw [← Nat.div_add_mod w.toNat 256, ← Nat.div_add_mod v.toNat 256, hdiv, hmod]

/-- Format B: a word with the code of `CRC.UPD` is the word of `CRC.UPD` on its low byte (30_encoding.md R82). -/
theorem eq_encode_crcUpd {w : Half} (h : codeField w = 0x11) : w = encode (.crcUpd (lowField w)) :=
  eq_of_fields_eq (h.trans (codeField_encode_crcUpd _).symm) (lowField_encode_crcUpd _).symm

/-! ### The decoder reads only the words of the commands -/

/-- Format Z: the word of a code's command is that code over a zero low byte (30_encoding.md R82), looked up in the table of
256 codes. -/
theorem fields_encode_of_formatZ : ∀ cc : Byte, ∀ i ∈ formatZ cc, codeField (encode i) = cc ∧ lowField (encode i) = 0x00 := by
  decide

theorem decode_of_codeField_crcUpd {w : Half} (h : codeField w = 0x11) : decode w = .ok (.crcUpd (lowField w)) := if_pos h

/-- Which format Z words decode, and to what. -/
theorem decode_of_codeField_ne_crcUpd {w : Half} (h : codeField w ≠ 0x11) (i : Instr) :
    decode w = .ok i ↔ formatZ (codeField w) = some i ∧ lowField w = 0x00 := by
  rw [decode, if_neg h]
  cases formatZ (codeField w) with
  | none => simp
  | some j =>
    by_cases hlow : lowField w = 0x00
    · simp only [hlow, if_true, Except.ok.injEq, Option.some.injEq, and_true]
    · simp only [hlow, if_false, reduceCtorEq, and_false]

/-- No bit of a word is dropped: what it decodes to has that word. -/
theorem eq_encode_of_decode {w : Half} {i : Instr} (h : decode w = .ok i) : w = encode i := by
  by_cases hcode : codeField w = 0x11
  · rw [decode_of_codeField_crcUpd hcode] at h
    cases h
    exact eq_encode_crcUpd hcode
  · obtain ⟨hz, hlow⟩ := (decode_of_codeField_ne_crcUpd hcode i).1 h
    obtain ⟨hcode', hlow'⟩ := fields_encode_of_formatZ _ i hz
    exact eq_of_fields_eq hcode'.symm (hlow.trans hlow'.symm)

/-- The decoder and the encoder are inverse to each other (30_encoding.md R83, R86). -/
theorem decode_eq_ok_iff (w : Half) (i : Instr) : decode w = .ok i ↔ w = encode i :=
  ⟨eq_encode_of_decode, fun h => h ▸ decode_encode i⟩

theorem encode_injective : Function.Injective encode := fun i j h =>
  Except.ok.inj ((decode_encode i).symm.trans ((decode_eq_ok_iff _ j).2 h))

/-- Settles O1. -/
theorem decodeReadsExactlyTheEncodedCommand : Obligations.DecodeReadsExactlyTheEncodedCommand := by
  unfold Obligations.DecodeReadsExactlyTheEncodedCommand
  exact fun w i _ => decode_eq_ok_iff w i

/-! ### The rows of the opcode table (30_encoding.md R83) -/

theorem encode_and_rowMask (i : Instr) : encode i &&& i.rowMask = i.rowMatch := by
  cases i
  case crcUpd b => exact EncodesItsRow.crcUpd b
  all_goals decide

/-- The mask of format B leaves the code field and clears the operand. -/
theorem codeField_of_crcUpd_row {w : Half} {b : Byte} (h : w &&& (Instr.crcUpd b).rowMask = (Instr.crcUpd b).rowMatch) :
    codeField w = 0x11 := by
  have hmask : codeField (w &&& 0xFF00) = codeField w := by
    simp only [codeField, BitVec.extractLsb'_and]
    exact BitVec.and_allOnes
  calc codeField w = codeField (w &&& 0xFF00) := hmask.symm
    _ = codeField 0x1100 := congrArg codeField h
    _ = 0x11 := by decide

/-- The mask of format Z fixes all 16 bits, so its row has one word. -/
theorem rowMask_of_ne_crcUpd (i : Instr) (h : ∀ b, i ≠ .crcUpd b) : i.rowMask = 0xFFFF ∧ encode i = i.rowMatch := by
  cases i
  case crcUpd b => exact absurd rfl (h b)
  all_goals exact ⟨rfl, rfl⟩

/-- A word that a row claims decodes to a command of that row. -/
theorem decode_of_row {w : Half} {i : Instr} (h : w &&& i.rowMask = i.rowMatch) :
    ∃ j, decode w = .ok j ∧ j.rowMatch = i.rowMatch := by
  by_cases hi : ∃ b, i = .crcUpd b
  · obtain ⟨b, rfl⟩ := hi
    exact ⟨_, decode_of_codeField_crcUpd (codeField_of_crcUpd_row h), rfl⟩
  · obtain ⟨hmask, hword⟩ := rowMask_of_ne_crcUpd i (not_exists.1 hi)
    have hw : w = encode i := by
      rw [hword, ← h, hmask]
      exact BitVec.and_allOnes.symm
    exact ⟨i, (decode_eq_ok_iff w i).2 hw, rfl⟩

/-- Settles O2: two rows that claim a word are both the row of the command it decodes to. -/
theorem decodeFollowsTheMatchMaskTable : Obligations.DecodeFollowsTheMatchMaskTable := by
  unfold Obligations.DecodeFollowsTheMatchMaskTable
  refine ⟨fun w i h => ?_, fun w i h => decode_of_row h, fun w i j hi hj => ?_⟩
  · rw [eq_encode_of_decode h]
    exact encode_and_rowMask i
  · obtain ⟨k, hk, hki⟩ := decode_of_row hi
    obtain ⟨l, hl, hlj⟩ := decode_of_row hj
    cases hk.symm.trans hl
    exact hki.symm.trans hlj

/-! ### The illegal words (30_encoding.md R84) -/

/-- The two cases of 30_encoding.md R84, by the fields of the word. -/
theorem decode_eq_error_iff (w : Half) :
    (∃ e, decode w = .error e) ↔
      (codeField w ≠ 0x11 ∧ formatZ (codeField w) = none) ∨ (codeField w ≠ 0x11 ∧ lowField w ≠ 0x00) := by
  by_cases hcode : codeField w = 0x11
  · simp [decode_of_codeField_crcUpd hcode, hcode]
  · have hrefused : (∃ e, decode w = .error e) ↔ ∀ i, decode w ≠ .ok i := by cases decode w <;> simp
    simp only [hrefused, ne_eq, decode_of_codeField_ne_crcUpd hcode, not_and_or, forall_or_right,
      Option.eq_none_iff_forall_ne_some, hcode, not_false_eq_true, true_and]

/-- The 17 command codes of the opcode table are `CRC.UPD`'s and those of format Z, looked up in the table of 256 codes. -/
theorem toNat_notMem_codes_iff (cc : Byte) :
    cc.toNat ∉ [0x00, 0x01, 0x10, 0x11, 0x20, 0x21, 0x22, 0x23, 0x24, 0x25, 0x2F, 0x30, 0x31, 0x32, 0x33, 0x34, 0x3F] ↔
      cc ≠ 0x11 ∧ formatZ cc = none := by
  revert cc; decide

theorem issue_of_decode_error {w : Half} {e : IllegalWord} (s : State) (h : decode w = .error e) :
    issue w s = .next (errorRecorded 5 s) := by
  unfold issue; rw [h]
  exact congrArg Host.Outcome.next (writeBack_of_ne_ok .illegalCommand s (by decide))

/-! ### The legal words, counted

They are the words of the commands, each command's once. -/

/-- The commands of format Z, in the order of the opcode table. -/
def formatZCommands : List Instr :=
  [.nop, .clrerr, .crcInit, .fmtBegin, .fmtHdr, .fmtLoad, .fmtEnc, .fmtCsum, .fmtPack, .frag, .dfmBegin, .dfmUnpack,
    .dfmCheck, .dfmDec, .dfmStore, .defrag]

/-- Every command once: those of format Z, and `CRC.UPD` with each operand. -/
def allCommands : List Instr := formatZCommands ++ (List.finRange 256).map fun b => .crcUpd (BitVec.ofFin b)

theorem mem_allCommands (i : Instr) : i ∈ allCommands := by
  cases i
  case crcUpd b => exact List.mem_append_right _ (List.mem_map.2 ⟨b.toFin, List.mem_finRange _, rfl⟩)
  all_goals exact List.mem_append_left _ (by decide)

theorem allCommands_length : allCommands.length = 272 := by
  simp [allCommands, formatZCommands]

theorem allCommands_nodup : allCommands.Nodup := by
  refine List.Nodup.append (by decide) ((List.nodup_finRange 256).map fun a b h => ?_) ?_
  · exact BitVec.ofFin.inj (Instr.crcUpd.inj h)
  · intro i hz hb
    obtain ⟨b, -, rfl⟩ := List.mem_map.1 hb
    simp [formatZCommands] at hz

/-- The legal words are the words of the commands. -/
theorem decode_isSome_iff (w : Half) : (decode w).toOption.isSome ↔ ∃ i, encode i = w := by
  have hok : (decode w).toOption.isSome ↔ ∃ i, decode w = .ok i := by
    cases decode w <;> simp [Except.toOption]
  simp only [hok, decode_eq_ok_iff, eq_comm (a := w)]

/-- The legal words among the 65536, listed by command. -/
theorem legalWords_perm_encode :
    ((List.range 65536).filter fun n => (decode (BitVec.ofNat 16 n)).toOption.isSome).Perm
      (allCommands.map fun i => (encode i).toNat) := by
  have hinj : Function.Injective fun i => (encode i).toNat := fun i j h => encode_injective (BitVec.eq_of_toNat_eq h)
  refine (List.perm_ext_iff_of_nodup (List.nodup_range.filter _) (allCommands_nodup.map hinj)).2 fun n => ?_
  simp only [List.mem_filter, List.mem_range, decode_isSome_iff, List.mem_map, mem_allCommands, true_and]
  constructor
  · rintro ⟨hn, i, hi⟩
    exact ⟨i, by rw [hi, BitVec.toNat_ofNat, Nat.mod_eq_of_lt hn]⟩
  · rintro ⟨i, rfl⟩
    exact ⟨(encode i).isLt, i, by rw [BitVec.ofNat_toNat, BitVec.setWidth_eq]⟩

theorem legalWords_count :
    ((List.range 65536).countP fun n => (decode (BitVec.ofNat 16 n)).toOption.isSome) = 272 := by
  rw [List.countP_eq_length_filter, legalWords_perm_encode.length_eq, List.length_map, allCommands_length]

/-- Settles O3. -/
theorem illegalWordsAreExactlyR84AndOnlyRecordCode5 : Obligations.IllegalWordsAreExactlyR84AndOnlyRecordCode5 := by
  unfold Obligations.IllegalWordsAreExactlyR84AndOnlyRecordCode5
  refine ⟨fun w => ?_, legalWords_count, fun s w rest e htodo hw => ?_⟩
  · have hcode : codeField w ≠ 0x11 ↔ w.toNat / 256 ≠ 0x11 := by
      rw [← codeField_toNat, ne_eq, ← BitVec.toNat_inj]; rfl
    have hlow : lowField w ≠ 0x00 ↔ w.toNat % 256 ≠ 0 := by
      rw [← lowField_toNat, ne_eq, ← BitVec.toNat_inj]; rfl
    rw [decode_eq_error_iff, ← toNat_notMem_codes_iff, hcode, hlow, codeField_toNat]
  · rw [step_of_command s w rest htodo, issue_of_decode_error _ hw]; rfl

/-! ### The words of the opcode table -/

theorem decodeTableWord_encode (i : Instr) : decodeTableWord 16 (encode i).toNat = some i := by
  have hword : BitVec.ofNat 16 ((encode i).toNat % 2 ^ 16) = encode i := by
    rw [Nat.mod_eq_of_lt (encode i).isLt, BitVec.ofNat_toNat, BitVec.setWidth_eq]
  rw [decodeTableWord, hword, decode_encode]

/-- Settles O4: the six legal words are the words of their commands; `0x2001` has an operand that format Z has not, and no
command has the code `0x35`. -/
theorem tableWordsDecodeToTheirRows : Obligations.TableWordsDecodeToTheirRows := by
  unfold Obligations.TableWordsDecodeToTheirRows
  exact ⟨decodeTableWord_encode .nop, decodeTableWord_encode (.crcUpd 0x61), decodeTableWord_encode .fmtPack,
    decodeTableWord_encode .frag, decodeTableWord_encode .dfmStore, decodeTableWord_encode .defrag, rfl, rfl⟩

end Sys2Proof.Machine
end

section
/-! PROOFS. The checksum engine (40_crc.md): `crc_step` in arithmetic, its linearity over XOR and that it can be undone, what
these say of `crc16` on changed sequences, and the streaming commands. -/

namespace Sys2Proof.Machine

/-! ### The two streaming commands (40_crc.md R103, R104) -/

theorem exec_crcInit (s : State) : exec .crcInit s = .next { s with acc := crcInitial, err := 0 } := rfl

theorem exec_crcUpd (b : Byte) (s : State) : exec (.crcUpd b) s = .next { s with acc := crcStep s.acc b, err := 0 } := rfl

/-- Settles O8. -/
theorem crcInitSetsAccumulator : Obligations.CrcInitSetsAccumulator := ⟨rfl, exec_crcInit⟩

/-! ### `crc_step` in arithmetic (40_crc.md R100) -/

/-- One bit of `crc_step` on natural numbers, as 40_crc.md R100 has it. -/
def crcBitNat (a : Nat) : Nat := if 32768 ≤ a then (2 * a % 65536) ^^^ 0x1021 else 2 * a

theorem toNat_shiftLeft_one (a : Half) : (a <<< 1).toNat = 2 * a.toNat % 65536 := by
  rw [BitVec.toNat_shiftLeft, Nat.shiftLeft_eq, Nat.pow_one, Nat.mul_comm]

/-- The high bit says whether doubling overflows. -/
theorem getLsbD_15_iff (a : Half) : a.getLsbD 15 = true ↔ 32768 ≤ a.toNat := by
  have hmsb : a.getLsbD 15 = a.msb := (BitVec.msb_eq_getLsbD_last a).symm
  rw [hmsb, BitVec.msb_eq_decide, decide_eq_true_iff]

theorem crcBit_toNat (a : Half) : (crcBit a).toNat = crcBitNat a.toNat := by
  simp only [crcBit, crcBitNat, getLsbD_15_iff]
  split
  · rw [BitVec.toNat_xor, toNat_shiftLeft_one]; rfl
  · rw [toNat_shiftLeft_one]; omega

theorem crcBits_toNat (n : Nat) (a : Half) : (crcBits n a).toNat = crcBitNat^[n] a.toNat := by
  induction n generalizing a with
  | zero => rfl
  | succ n ih => rw [crcBits, ih, crcBit_toNat, Function.iterate_succ_apply]

theorem foldedByte_toNat (b : Byte) : (b.zeroExtend 16 <<< 8).toNat = 256 * b.toNat := by
  have hb := b.isLt
  rw [BitVec.toNat_shiftLeft, BitVec.toNat_setWidth, Nat.shiftLeft_eq]
  omega

theorem crcStep_toNat (a : Half) (b : Byte) : (crcStep a b).toNat = crcBitNat^[8] (a.toNat ^^^ 256 * b.toNat) := by
  rw [crcStep, crcBits_toNat, BitVec.toNat_xor, foldedByte_toNat]

/-- Settles O9: the fold over `List.range 8` ignores the index, so it is `crcBitNat` eight times. -/
theorem crcUpdFoldsOneByte : Obligations.CrcUpdFoldsOneByte := by
  unfold Obligations.CrcUpdFoldsOneByte
  intro s b
  have hfold : (List.range 8).foldl (fun a _ => crcBitNat a) (s.acc.toNat ^^^ 256 * b.toNat) =
      (crcStep s.acc b).toNat := by
    rw [List.foldl_const, List.length_range, crcStep_toNat]
  simp only [crcBitNat] at hfold
  rw [exec_crcUpd, hfold, BitVec.ofNat_toNat, BitVec.setWidth_eq]

/-! ### `crc_step` is linear and can be undone (40_crc.md R106, R107) -/

/-- `crc_step` is linear over XOR in the accumulator and the byte together. -/
theorem crcStep_xor (a c : Half) (b d : Byte) : crcStep (a ^^^ c) (b ^^^ d) = crcStep a b ^^^ crcStep c d := by
  have harrange : a ^^^ c ^^^ ((b ^^^ d).zeroExtend 16 <<< 8) =
      (a ^^^ (b.zeroExtend 16 <<< 8)) ^^^ (c ^^^ (d.zeroExtend 16 <<< 8)) := by
    rw [BitVec.zeroExtend, BitVec.setWidth_xor, BitVec.shiftLeft_xor_distrib]
    ac_rfl
  rw [crcStep, harrange, crcBits_xor]; rfl

/-- What folds to zero is an accumulator that the byte's XOR cancels. -/
theorem eq_foldedByte_of_crcStep_eq_zero {a : Half} {b : Byte} (h : crcStep a b = 0) : a = b.zeroExtend 16 <<< 8 :=
  BitVec.xor_eq_zero_iff.1 (crcBits_eq_zero 8 _ h)

theorem crcStep_injective_acc (b : Byte) : Function.Injective fun a : Half => crcStep a b := by
  intro a c (h : crcStep a b = crcStep c b)
  have hzero : crcStep (a ^^^ c) (b ^^^ b) = 0 := by rw [crcStep_xor, h, BitVec.xor_self]; rfl
  rw [BitVec.xor_self] at hzero
  exact BitVec.xor_eq_zero_iff.1 (eq_foldedByte_of_crcStep_eq_zero hzero)

theorem crcStep_injective_byte (a : Half) : Function.Injective (crcStep a) := by
  intro b d h
  have hzero : crcStep (a ^^^ a) (b ^^^ d) = 0 := by rw [crcStep_xor, h, BitVec.xor_self]; rfl
  have hfolded := congrArg BitVec.toNat (eq_foldedByte_of_crcStep_eq_zero hzero)
  rw [BitVec.xor_self, foldedByte_toNat, BitVec.toNat_zero] at hfolded
  exact BitVec.xor_eq_zero_iff.1 (BitVec.eq_of_toNat_eq (by rw [BitVec.toNat_zero]; omega))

/-- The byte's XOR leaves bits 7 to 0 (40_crc.md R100). -/
theorem extractLsb'_xor_foldedByte (a : Half) (b : Byte) :
    (a ^^^ (b.zeroExtend 16 <<< 8)).extractLsb' 0 8 = a.extractLsb' 0 8 := by
  have hlow : (b.zeroExtend 16 <<< 8).extractLsb' 0 8 = 0#8 := by
    apply BitVec.eq_of_toNat_eq
    rw [BitVec.extractLsb'_toNat, foldedByte_toNat, BitVec.toNat_zero, Nat.shiftRight_zero]
    omega
  rw [BitVec.extractLsb'_xor, hlow, BitVec.xor_zero]

theorem crcStep_eq_crcStep_zero (a : Half) (b : Byte) : crcStep a b = crcStep (a ^^^ (b.zeroExtend 16 <<< 8)) 0 := by
  have hzero : (0 : Byte).zeroExtend 16 <<< 8 = 0#16 := rfl
  rw [crcStep, crcStep, hzero, BitVec.xor_zero]

/-- Settles O10: on the finite set of accumulators an injection is a bijection. -/
theorem crcStepIsABijectionThatFoldsTheByte : Obligations.CrcStepIsABijectionThatFoldsTheByte :=
  ⟨toNat_shiftLeft_one, extractLsb'_xor_foldedByte,
    fun b => Finite.injective_iff_bijective.1 (crcStep_injective_acc b), crcStep_eq_crcStep_zero⟩

/-- Refutes O16: `0xF01F` is not 0, and the byte 0 leads it back to itself. -/
theorem not_zeroByteChangesEveryNonzeroAccumulator : ¬ Obligations.ZeroByteChangesEveryNonzeroAccumulator := by
  unfold Obligations.ZeroByteChangesEveryNonzeroAccumulator
  intro h
  have hfixed : crcStep 0xF01F 0x00 = 0xF01F := by decide
  exact h 0xF01F (by decide) hfixed

/-! ### `crc16` on sequences (40_crc.md R101, R107) -/

/-- Settles O14: each value is a fold of at most nine bytes, evaluated. -/
theorem crcCornerValues : Obligations.CrcCornerValues := by
  unfold Obligations.CrcCornerValues
  decide +kernel

/-- Linearity carried along two sequences of one length. -/
theorem foldl_crcStep_xor (m m' : List Byte) (a c : Half) (h : m.length = m'.length) :
    m.foldl crcStep a ^^^ m'.foldl crcStep c = (List.zipWith (· ^^^ ·) m m').foldl crcStep (a ^^^ c) := by
  induction m generalizing m' a c with
  | nil => rw [List.length_eq_zero_iff.1 h.symm]; rfl
  | cons b m ih =>
    cases m' with
    | nil => simp at h
    | cons d m' =>
      simp only [List.foldl_cons, List.zipWith_cons_cons, crcStep_xor]
      exact ih m' _ _ (Nat.succ.inj h)

/-- The checksum difference that a change by `d`, XORed into a sequence of the same length, causes: the initial value
cancels, so the fold starts from 0 (40_crc.md R107). -/
def crcDifference (d : List Byte) : Half := d.foldl crcStep 0

theorem crc16_xor_crc16 {m m' : List Byte} (h : m.length = m'.length) :
    crc16 m ^^^ crc16 m' = crcDifference (List.zipWith (· ^^^ ·) m m') := by
  rw [crc16, crc16, foldl_crcStep_xor m m' _ _ h, BitVec.xor_self]; rfl

/-- Settles O11. -/
theorem crcDifferenceDependsOnlyOnTheXor : Obligations.CrcDifferenceDependsOnlyOnTheXor := by
  unfold Obligations.CrcDifferenceDependsOnlyOnTheXor
  intro m m' k k' hm hk hxor
  rw [crc16_xor_crc16 hm, crc16_xor_crc16 hk, hxor]

theorem foldl_crcStep_injective (bytes : List Byte) : Function.Injective (bytes.foldl crcStep) := by
  induction bytes with
  | nil => exact Function.injective_id
  | cons b bytes ih => exact ih.comp (crcStep_injective_acc b)

/-- Settles O12: the bytes before the change leave one accumulator, the changed byte two different ones, and the bytes after
it never bring them together again. -/
theorem oneChangedByteChangesTheChecksum : Obligations.OneChangedByteChangesTheChecksum := by
  unfold Obligations.OneChangedByteChangesTheChecksum
  intro pre post x y hxy h
  simp only [crc16, List.foldl_append, List.foldl_cons] at h
  exact hxy (crcStep_injective_byte _ (foldl_crcStep_injective post h))

/-! ### Flipped bits of a header (40_crc.md R107) -/

/-- Bit `i % 8` of byte `i / 8` is inverted. -/
def flipBit (i : Nat) (m : List Byte) : List Byte := m.modify (i / 8) (· ^^^ (1#8 <<< (i % 8)))

@[simp] theorem length_flipBit (i : Nat) (m : List Byte) : (flipBit i m).length = m.length := List.length_modify ..

/-- A byte changed by `d` differs from the sequence before by `d` at its place and by nothing elsewhere. -/
theorem zipWith_xor_modify (n : Nat) (d : Byte) (m : List Byte) :
    List.zipWith (· ^^^ ·) (m.modify n (· ^^^ d)) m = (List.replicate m.length 0#8).modify n (· ^^^ d) := by
  induction m generalizing n with
  | nil => simp
  | cons b m ih =>
    cases n with
    | zero => simp [List.replicate_succ, List.zipWith_self]
    | succ n => simpa [List.replicate_succ] using ih n

/-- The checksum difference of one flipped bit of a header (95_test_vectors.md V20). -/
def flipDifference (i : Nat) : Half := crcDifference (flipBit i (List.replicate 7 0#8))

theorem crc16_flipBit (i : Nat) {m : List Byte} (hm : m.length = 7) :
    crc16 (flipBit i m) ^^^ crc16 m = flipDifference i := by
  rw [crc16_xor_crc16 (length_flipBit i m), flipBit, zipWith_xor_modify, hm]; rfl

/-- The 56 differences are non-zero and pairwise distinct (40_crc.md R107). -/
theorem zero_cons_flipDifferences_nodup : (0#16 :: (List.range 56).map flipDifference).Nodup := by decide +kernel

theorem flipDifference_ne_zero {i : Nat} (hi : i < 56) : flipDifference i ≠ 0 := fun h =>
  (List.nodup_cons.1 zero_cons_flipDifferences_nodup).1 (List.mem_map.2 ⟨i, List.mem_range.2 hi, h⟩)

theorem flipDifference_inj {i j : Nat} (hi : i < 56) (hj : j < 56) (h : flipDifference i = flipDifference j) : i = j :=
  List.inj_on_of_nodup_map (List.nodup_cons.1 zero_cons_flipDifferences_nodup).2
    (List.mem_range.2 hi) (List.mem_range.2 hj) h

theorem crc16_flipBit_ne {m : List Byte} (hm : m.length = 7) {i : Nat} (hi : i < 56) : crc16 (flipBit i m) ≠ crc16 m :=
  fun h => flipDifference_ne_zero hi (by rw [← crc16_flipBit i hm, h, BitVec.xor_self]; rfl)

/-- Were the checksum unchanged, the second flip would undo the difference of the first. -/
theorem crc16_flipBit_flipBit_ne {m : List Byte} (hm : m.length = 7) {i j : Nat} (hi : i < 56) (hj : j < 56)
    (hij : i ≠ j) : crc16 (flipBit j (flipBit i m)) ≠ crc16 m := by
  intro h
  refine hij (flipDifference_inj hi hj ?_)
  calc flipDifference i = crc16 (flipBit i m) ^^^ crc16 m := (crc16_flipBit i hm).symm
    _ = crc16 (flipBit j (flipBit i m)) ^^^ crc16 (flipBit i m) := by rw [h, BitVec.xor_comm]
    _ = flipDifference j := crc16_flipBit j ((length_flipBit i m).trans hm)

/-- Settles O13. -/
theorem oneOrTwoFlippedHeaderBitsChangeTheChecksum : Obligations.OneOrTwoFlippedHeaderBitsChangeTheChecksum := by
  unfold Obligations.OneOrTwoFlippedHeaderBitsChangeTheChecksum
  exact fun m i j hm hi hj => ⟨crc16_flipBit_ne hm hi, crc16_flipBit_flipBit_ne hm hi hj⟩

/-! ### Streaming (40_crc.md R105) -/

theorem step_of_encode (s : State) (i : Instr) (rest : List HostAction)
    (h : s.todo = HostAction.command (encode i) :: rest) : step s = exec i (s.setTodo rest) := by
  rw [step_of_command s _ rest h, issue_of_decode_ok _ i _ (decode_encode i)]

theorem run_succ_of_step (n : Nat) (s u : State) (h : step s = .next u) :
    Host.Core.run core (n + 1) s = Host.Core.run core n u := by
  have hcore : core.step = step := rfl
  simp only [Host.Core.run, hcore, h]

/-- `CRC.UPD` of each byte folds the bytes into whatever `ACC` holds. -/
theorem run_crcUpds (bytes : List Byte) (s : State) (a : Half) (rest : List HostAction) :
    Host.Core.run core bytes.length
        { s with acc := a, err := 0, todo := bytes.map (fun b => HostAction.command (encode (.crcUpd b))) ++ rest } =
      .next { s with acc := bytes.foldl crcStep a, err := 0, todo := rest } := by
  induction bytes generalizing a with
  | nil => rfl
  | cons b bytes ih =>
    rw [List.length_cons, run_succ_of_step _ _ _ ((step_of_encode _ (.crcUpd b) _ rfl).trans (exec_crcUpd b _))]
    exact ih (crcStep a b)

/-- Settles O15. -/
theorem streamingLeavesCrc16 : Obligations.StreamingLeavesCrc16 := by
  unfold Obligations.StreamingLeavesCrc16
  intro s bytes rest htodo
  rw [run_succ_of_step _ s _ ((step_of_encode s .crcInit _ htodo).trans (exec_crcInit _))]
  exact run_crcUpds bytes s crcInitial rest

end Sys2Proof.Machine
end

section
/-! PROOFS. The transmit path, one micro-command at a time (41_formatter.md R121 to R128): the counts and chunks of a
payload, and how each body ends with a frame to work on and without one. -/

namespace Sys2Proof.Machine

open Sys2Proof.Safety

/-! ### From a body to its command (60_exceptions.md R193) -/

theorem writeBack_eq_errorRecorded {r : Result} (hr : r ≠ .ok) (s : State) : writeBack r s = errorRecorded r.code s :=
  writeBack_of_ne_ok r s hr

theorem exec_of_body_ok (i : Instr) {s t : State} (h : bodyOf Config.params i s = .ended t .ok) :
    exec i s = .next (writeBack .ok t) := by
  rw [exec_eq_finish, h, finish_ended]

theorem exec_of_body_raises (i : Instr) (r : Result) {s t : State} (hr : r ≠ .ok)
    (h : bodyOf Config.params i s = .ended t r) : exec i s = .next (errorRecorded r.code t) := by
  rw [exec_eq_finish, h, finish_ended, writeBack_eq_errorRecorded hr]

/-! ### The counts and the chunks of a payload (41_formatter.md R121, R122) -/

theorem frameCount_le_iff (len c : Nat) : frameCount len ≤ c ↔ len ≤ 22 * c := by
  rw [frameCount_eq]; omega

/-- The first `n` chunks are the first `22 * n` bytes of the payload, as far as it goes. -/
theorem sum_chunkLen (len n : Nat) : ((List.range n).map (chunkLen len)).sum = min len (22 * n) := by
  induction n with
  | zero => simp
  | succ n ih =>
    rw [List.range_succ, List.map_append, List.sum_append, ih, List.map_singleton, List.sum_singleton]
    simp only [chunkLen, cap]; omega

theorem fragment_nil (p : Params) (key : Key) (opcode : Half) (maxf : Nat) : fragment p [] key opcode maxf = .ok [] :=
  if_neg (Nat.not_lt_zero maxf)

/-- Settles O17. -/
theorem frameCountIsTheLeastThatHolds : Obligations.FrameCountIsTheLeastThatHolds := by
  unfold Obligations.FrameCountIsTheLeastThatHolds
  refine ⟨rfl, fun n => ?_, fun len => ⟨rfl, (frameCount_bounds len).1, fun c => (frameCount_le_iff len c).2⟩,
    fun len => ?_, fragment_nil Config.params⟩
  · rw [frameCount_eq]; omega
  · have hlen := len.isLt
    rw [frameCount_eq]; omega

/-- Settles O18: the sum is `sum_chunkLen` up to a count whose chunks hold the whole payload. -/
theorem chunksMakeUpThePayload : Obligations.ChunksMakeUpThePayload := by
  unfold Obligations.ChunksMakeUpThePayload
  refine fun len => ⟨fun _ _ => rfl, fun i hi => ?_, fun i hi => ?_, chunkLen_of_not_last len, ?_⟩
  · have hlast := chunkLen_last len i hi
    omega
  · obtain ⟨hpos, hle, -⟩ := chunkLen_bounds len i hi
    exact ⟨hpos, hle⟩
  · rw [sum_chunkLen, min_eq_left (frameCount_bounds len).1]

/-! ### How the bodies end -/

theorem fmtBegin_refuses (s : State) (h : s.maxf.toNat < frameCount s.len.toNat) :
    fmtBegin s = .ended (s.startTransmit 0 0) .capacityExceeded := if_pos h

/-- `FIDX < COUNT`, so the 16-bit difference is the natural one (41_formatter.md R124). -/
theorem count_sub_fidx (s : State) (h : s.fidx.toNat < s.count.toNat) :
    s.count - s.fidx = BitVec.ofNat 16 (s.count.toNat - s.fidx.toNat) := by
  rw [← BitVec.ofNat_sub_ofNat_of_le _ _ s.fidx.isLt h.le, BitVec.ofNat_toNat, BitVec.ofNat_toNat, BitVec.setWidth_eq,
    BitVec.setWidth_eq]

theorem fmtHdr_ok (p : Params) (s : State) (h : s.fidx.toNat < s.count.toNat) :
    fmtHdr p s = .ended (s.setHeader p.startFlag s.opcfg (BitVec.ofNat 16 (s.count.toNat - s.fidx.toNat)) s.count
      p.endFlag) .ok := by
  rw [← count_sub_fidx s h]; exact if_neg (not_le.2 h)

/-- A frame of the sequence has its chunk in `PMEM`, so under the invariants `FMT.LOAD` does not fault. -/
theorem fmtLoad_ok (p : Params) (s : State) (hs : Inv p s) (h : s.fidx.toNat < s.count.toNat) :
    fmtLoad p s = .ended (s.setData (loadedBlock p s)) .ok := by
  obtain ⟨t, r, hend, -⟩ := endsUnderInv_fmtLoad p s hs
  rcases fmtLoad_cases p s t r hend with ⟨-, hle, -⟩ | ⟨rfl, -, rfl⟩
  · omega
  · exact hend

/-- A frame of the sequence has its slot in `FMEM`, so under the invariants `FMT.PACK` does not fault. -/
theorem fmtPack_ok (p : Params) (s : State) (hs : Inv p s) (h : s.fidx.toNat < s.count.toNat) :
    fmtPack p s =
      .ended (s.advancePacked (s.fmem.writeBytes (slotBase s.fidx.toNat) (pack s.fields).toList)) .ok := by
  obtain ⟨t, r, hend, -⟩ := endsUnderInv_fmtPack p s hs
  rcases fmtPack_cases p s t r hend with ⟨-, hle, -⟩ | ⟨rfl, -, -, rfl⟩
  · omega
  · exact hend

section
variable (p : Params) (s : State) (h : s.count.toNat ≤ s.fidx.toNat)
include h

theorem fmtHdr_without_frame : fmtHdr p s = .ended s .opRange := if_pos h

theorem fmtLoad_without_frame : fmtLoad p s = .ended s .opRange := if_pos h

theorem fmtPack_without_frame : fmtPack p s = .ended s .opRange := if_pos h

end

/-! ### The commands -/

/-- Settles O25. -/
theorem transmitCommandsWithoutAFrameRecordOpRange : Obligations.TransmitCommandsWithoutAFrameRecordOpRange := by
  unfold Obligations.TransmitCommandsWithoutAFrameRecordOpRange
  rintro s h i (rfl | rfl | rfl)
  · exact exec_of_body_raises .fmtHdr .opRange (by decide) (fmtHdr_without_frame _ s h)
  · exact exec_of_body_raises .fmtLoad .opRange (by decide) (fmtLoad_without_frame _ s h)
  · exact exec_of_body_raises .fmtPack .opRange (by decide) (fmtPack_without_frame _ s h)

/-- Settles O19. -/
theorem fmtBeginLatchesOrRefusesTheLength : Obligations.FmtBeginLatchesOrRefusesTheLength := by
  unfold Obligations.FmtBeginLatchesOrRefusesTheLength
  refine ⟨rfl, fun s => ?_⟩
  rw [← frameCount_eq]
  split
  case isTrue hlt => exact exec_of_body_raises .fmtBegin .capacityExceeded (by decide) (fmtBegin_refuses s hlt)
  case isFalse hle => exact exec_of_body_ok .fmtBegin (fmtBegin_ok s (not_lt.1 hle))

/-- Settles O20. -/
theorem fmtHdrSetsTheHeaderRegisters : Obligations.FmtHdrSetsTheHeaderRegisters := by
  unfold Obligations.FmtHdrSetsTheHeaderRegisters
  refine ⟨rfl, fun s => ?_⟩
  split
  case isTrue hle => exact exec_of_body_raises .fmtHdr .opRange (by decide) (fmtHdr_without_frame _ s hle)
  case isFalse hlt => exact exec_of_body_ok .fmtHdr (fmtHdr_ok _ s (not_le.1 hlt))

theorem loadedBlock_getElem (p : Params) (s : State) (j : Nat) (hj : j < 22) :
    (loadedBlock p s)[j] =
      if j < chunkLen s.tlen.toNat s.fidx.toNat then pmemByte p s (22 * s.fidx.toNat + j) else 0 :=
  Vector.getElem_ofFn hj

/-- Settles O21. -/
theorem fmtLoadCopiesTheChunkAndPads : Obligations.FmtLoadCopiesTheChunkAndPads := by
  unfold Obligations.FmtLoadCopiesTheChunkAndPads
  intro s hs h
  refine ⟨_, exec_of_body_ok .fmtLoad (fmtLoad_ok _ s hs h), by apply State.ext <;> simp, fun j hj => ?_⟩
  rw [writeBack_data, setData_data]
  exact loadedBlock_getElem Config.params s j hj

/-- Settles O22. -/
theorem fmtEncEnciphersTheDataField : Obligations.FmtEncEnciphersTheDataField := by
  unfold Obligations.FmtEncEnciphersTheDataField
  refine ⟨rfl, fun s => ?_⟩
  split
  case isTrue hkey => exact exec_of_body_ok .fmtEnc (if_pos ((keyValid_iff s).2 hkey))
  case isFalse hkey => exact exec_of_body_raises .fmtEnc .noKey (by decide) (if_neg (hkey ∘ (keyValid_iff s).1))

/-- Settles O23. -/
theorem fmtCsumChecksumsTheHeaderRegisters : Obligations.FmtCsumChecksumsTheHeaderRegisters :=
  ⟨rfl, fun s => exec_of_body_ok .fmtCsum (fmtCsum_eq s)⟩

theorem slotBase_eq (i : Nat) : slotBase i = 32 * i := rfl

@[simp] theorem fmemByte_writeBack (p : Params) (r : Result) (s : State) (a : Nat) :
    fmemByte p (writeBack r s) a = fmemByte p s a :=
  fmemByte_congr p s _ (writeBack_fmem r s) (writeBack_epoch r s) a

section
variable (p : Params) (s : State) (x : Fields)

/-- The packed slot holds the frame's wire bytes (20_memory.md R62). -/
theorem fmemByte_advancePacked_slot (o : Nat) (ho : o < 32) :
    fmemByte p (s.advancePacked (s.fmem.writeBytes (slotBase s.fidx.toNat) (pack x).toList)) (32 * s.fidx.toNat + o) =
      (wireBytes x).getD o 0 := by
  rw [slotBase_eq, fmemByte_writeBytes p s _ (32 * s.fidx.toNat) (pack x).toList _
    (advancePacked_fmem ..) (advancePacked_epoch ..), dif_pos (by rw [Vector.length_toList]; omega),
    ← List.getD_eq_getElem _ 0, pack_toList, Nat.add_sub_cancel_left]

theorem fmemByte_advancePacked_outside (a : Nat) (ha : a < 32 * s.fidx.toNat ∨ 32 * s.fidx.toNat + 32 ≤ a) :
    fmemByte p (s.advancePacked (s.fmem.writeBytes (slotBase s.fidx.toNat) (pack x).toList)) a = fmemByte p s a := by
  rw [slotBase_eq, fmemByte_writeBytes p s _ (32 * s.fidx.toNat) (pack x).toList _
    (advancePacked_fmem ..) (advancePacked_epoch ..), dif_neg (by rw [Vector.length_toList]; omega)]

end

/-- Settles O24. -/
theorem fmtPackWritesOneSlot : Obligations.FmtPackWritesOneSlot := by
  unfold Obligations.FmtPackWritesOneSlot
  intro s hs h
  refine ⟨_, exec_of_body_ok .fmtPack (fmtPack_ok _ s hs h), by apply State.ext <;> simp, toNat_add_one_of_lt _ _ h,
    fun o ho => ?_, fun a ha => ?_⟩
  · rw [fmemByte_writeBack, fmemByte_advancePacked_slot _ s _ o ho, wireBytes_eq]
    simp only [fields_sflag, fields_opc, fields_pkt, fields_exp, fields_data, fields_csum, fields_eflag]
  · rw [fmemByte_writeBack, fmemByte_advancePacked_outside _ s _ a ha]

end Sys2Proof.Machine
end

section
/-! PROOFS. `FRAG` (41_formatter.md R129) computes `fragment` (R120) into the slots, how it fails, and the laws its frames
obey (R130). -/

namespace Sys2Proof.Machine

open Sys2Proof.Safety

/-! ### `FMT.BEGIN`, and then the loop -/

/-- The state `FMT.BEGIN` leaves when it accepts the length (41_formatter.md R123). -/
abbrev State.latched (s : State) : State := s.startTransmit s.len (BitVec.ofNat 16 (frameCount s.len.toNat))

theorem latched_count_toNat (s : State) (hfit : frameCount s.len.toNat ≤ s.maxf.toNat) :
    s.latched.count.toNat = frameCount s.len.toNat := by
  have hmaxf := s.maxf.isLt
  rw [startTransmit_count, BitVec.toNat_ofNat, Nat.mod_eq_of_lt (by omega)]

theorem inv_latched (p : Params) (s : State) (hs : Inv p s) (hfit : frameCount s.len.toNat ≤ s.maxf.toNat) :
    Inv p s.latched := inv_fmtBegin p s _ _ hs (fmtBegin_ok s hfit)

theorem frag_of_too_long (p : Params) (s : State) (h : s.maxf.toNat < frameCount s.len.toNat) :
    frag p s = .ended (s.startTransmit 0 0) .capacityExceeded := by
  rw [frag, fmtBegin_refuses s h, andThen_of_ne_ok _ _ _ (by decide)]

theorem frag_of_fits (p : Params) (s : State) (hfit : frameCount s.len.toNat ≤ s.maxf.toNat) :
    frag p s = fragLoop p (frameCount s.len.toNat) s.latched := by
  rw [frag, fmtBegin_ok s hfit, andThen_ok, latched_count_toNat s hfit]; rfl

theorem frag_of_no_frame (p : Params) (s : State) (hlen : frameCount s.len.toNat = 0) :
    frag p s = .ended s.latched .ok := by
  rw [frag_of_fits p s (by omega), hlen]; rfl

/-! ### The frames of the transmission are those of the contract (41_formatter.md R120) -/

theorem payloadOf_length (p : Params) (s : State) : (payloadOf p s).length = s.len.toNat := by
  simp [payloadOf]

/-- The real bytes of a chunk lie inside the payload. -/
theorem plainBlock_payloadOf (p : Params) (s : State) (i : Nat) :
    plainBlock (payloadOf p s) i = Vector.ofFn fun j : Fin 22 =>
      if j.val < chunkLen s.len.toNat i then pmemByte p s (22 * i + j.val) else 0 := by
  unfold plainBlock
  rw [payloadOf_length]
  congr 1; funext j
  by_cases hj : j.val < chunkLen s.len.toNat i
  · have hin : 22 * i + j.val < s.len.toNat := by simp only [chunkLen, cap] at hj; omega
    simp [hj, payloadOf, cap, hin]
  · rw [if_neg hj, if_neg hj]

/-- Frame `i` of the transmission of the payload of `s`, as the contract has it. -/
abbrev sentFrame (p : Params) (s : State) (i : Nat) : Frame :=
  frameOf p (payloadOf p s) s.key s.opcfg (frameCount s.len.toNat) i

theorem pack_fragFields (p : Params) (s : State) (hfit : frameCount s.len.toNat ≤ s.maxf.toNat) (i : Nat) :
    pack (fragFields p s.latched i) = sentFrame p s i := by
  unfold sentFrame frameOf
  rw [plainBlock_payloadOf, fragFields, latched_count_toNat s hfit]
  rfl

theorem fragment_payloadOf (p : Params) (s : State) (hfit : frameCount s.len.toNat ≤ s.maxf.toNat) :
    fragment p (payloadOf p s) s.key s.opcfg s.maxf.toNat =
      .ok ((List.range (frameCount s.len.toNat)).map (sentFrame p s)) := by
  rw [fragment, payloadOf_length, if_neg (not_lt.2 hfit)]

/-! ### What a `FRAG` that raises nothing leaves -/

/-- `t` is `s` after its payload was fragmented into the slots (41_formatter.md R129). -/
structure Transmitted (p : Params) (s t : State) : Prop where
  count : t.count.toNat = frameCount s.len.toNat
  fidx : t.fidx = t.count
  tlen : t.tlen = s.len
  slots : ∀ i, i < frameCount s.len.toNat → readSlot p t i = sentFrame p s i
  beyond : ∀ a, 32 * frameCount s.len.toNat ≤ a → fmemByte p t a = fmemByte p s a
  last : 0 < frameCount s.len.toNat → pack t.fields = sentFrame p s (frameCount s.len.toNat - 1) ∧ t.acc = t.csum
  none : frameCount s.len.toNat = 0 → t.fields = s.fields ∧ t.acc = s.acc
  rest : t = { s with
    sflag := t.sflag, opc := t.opc, pkt := t.pkt, exp := t.exp, csum := t.csum, eflag := t.eflag, data := t.data
    acc := t.acc, tlen := t.tlen, count := t.count, fidx := t.fidx, fmem := t.fmem }

theorem frag_transmits (p : Params) (s : State) (hs : Inv p s) (hk : keyValid s = true)
    (hfit : frameCount s.len.toNat ≤ s.maxf.toNat) : ∃ t, frag p s = .ended t .ok ∧ Transmitted p s t := by
  have hcount := latched_count_toNat s hfit
  have hzero : s.latched.fidx.toNat = 0 := rfl
  obtain ⟨t, hloop, hfidx, hslots, hbeyond, hlast, hnone, hrest⟩ :=
    fragLoop_spec p (frameCount s.len.toNat) s.latched (inv_latched p s hs hfit) hk (by omega) (by omega)
  rw [hcount, hzero] at hlast hnone
  simp only [hcount, hzero] at hslots hbeyond
  have ht : t.count = s.latched.count := by rw [hrest]
  refine ⟨t, (frag_of_fits p s hfit).trans hloop, ?_, ?_, ?_, ?_, ?_, ?_, ?_, ?_⟩
  · rw [ht, hcount]
  · rw [ht, hfidx]
  · rw [hrest]; rfl
  · intro i hi
    rw [← pack_fragFields p s hfit]
    apply Vector.ext
    intro o ho
    rw [readSlot_getElem p t i o ho, hslots i (Nat.zero_le i) hi o ho]
  · exact fun a ha => hbeyond a (.inr ha)
  · intro hpos
    obtain ⟨hfields, hacc⟩ := hlast hpos
    exact ⟨by rw [hfields, pack_fragFields p s hfit], hacc⟩
  · intro h
    rw [hnone h.symm]
    exact ⟨rfl, rfl⟩
  · rw [hrest]; rfl

/-- With no frame to build, nothing but the latched lengths changes, whether or not there is a key. -/
theorem transmitted_latched (p : Params) (s : State) (hlen : frameCount s.len.toNat = 0) :
    Transmitted p s s.latched where
  count := by rw [latched_count_toNat s (by omega)]
  fidx := by rw [startTransmit_fidx, startTransmit_count, hlen]; rfl
  tlen := rfl
  slots := by omega
  beyond := fun _ _ => rfl
  last := by omega
  none := fun _ => ⟨rfl, rfl⟩
  rest := rfl

/-! ### How `FRAG` fails -/

theorem fragFrame_without_key (p : Params) (s : State) (hs : Inv p s) (hlt : s.fidx.toNat < s.count.toNat)
    (hk : keyValid s = false) :
    fragFrame p s = .ended ((s.setHeader p.startFlag s.opcfg (s.count - s.fidx) s.count p.endFlag).setData
      (loadedBlock p s)) .noKey := by
  obtain ⟨t, r, hend, -⟩ := endsUnderInv_fragFrame p s hs
  rcases fragFrame_cases p s t r hlt hend with ⟨rfl, -, rfl⟩ | ⟨-, hk', -, -⟩
  · exact hend
  · rw [hk] at hk'; cases hk'

/-- The first turn raises `NoKey`, with the header and the plain block of frame 0 in the registers. -/
theorem frag_without_key (p : Params) (s : State) (hs : Inv p s) (hk : keyValid s = false)
    (hfit : frameCount s.len.toNat ≤ s.maxf.toNat) (hpos : 0 < frameCount s.len.toNat) :
    frag p s = .ended ((s.latched.setHeader p.startFlag s.opcfg (BitVec.ofNat 16 (frameCount s.len.toNat))
      (BitVec.ofNat 16 (frameCount s.len.toNat)) p.endFlag).setData (plainBlock (payloadOf p s) 0)) .noKey := by
  have hlt : s.latched.fidx.toNat < s.latched.count.toNat := by
    rw [latched_count_toNat s hfit]; exact hpos
  have hpkt : s.latched.count - s.latched.fidx = BitVec.ofNat 16 (frameCount s.len.toNat) := BitVec.sub_zero _
  have hdata : loadedBlock p s.latched = plainBlock (payloadOf p s) 0 := (plainBlock_payloadOf p s 0).symm
  obtain ⟨n, hn⟩ := Nat.exists_eq_succ_of_ne_zero hpos.ne'
  rw [frag_of_fits p s hfit]
  nth_rewrite 1 [hn]
  rw [fragLoop, if_pos hlt, fragFrame_without_key p _ (inv_latched p s hs hfit) hlt hk,
    andThen_of_ne_ok _ _ _ (by decide), hpkt, hdata]
  rfl

/-- Settles O27. -/
theorem fragErrorsLeaveTheFramesUntouched : Obligations.FragErrorsLeaveTheFramesUntouched := by
  unfold Obligations.FragErrorsLeaveTheFramesUntouched
  refine fun s => ⟨fun h => ?_, fun hs hk hfit hlen => ?_, fun hlen => ?_⟩
  · exact exec_of_body_raises .frag .capacityExceeded (by decide) (frag_of_too_long _ s h)
  · have hpos : 0 < frameCount s.len.toNat := by rw [frameCount_eq]; omega
    exact exec_of_body_raises .frag .noKey (by decide) (frag_without_key _ s hs hk hfit hpos)
  · have hzero : frameCount s.len.toNat = 0 := by rw [hlen]; rfl
    have hlatched : s.latched = s.startTransmit 0 0 := by rw [State.latched, hzero, hlen]; rfl
    exact exec_of_body_ok .frag (hlatched ▸ frag_of_no_frame _ s hzero)

/-- A `FRAG` that ends with `OK` has transmitted the payload: it had a key, or nothing to send. -/
theorem transmitted_of_frag_ok (p : Params) (s t : State) (hs : Inv p s) (h : frag p s = .ended t .ok) :
    Transmitted p s t := by
  rcases lt_or_ge s.maxf.toNat (frameCount s.len.toNat) with hlong | hfit
  · rw [frag_of_too_long p s hlong] at h; cases h
  rcases Nat.eq_zero_or_pos (frameCount s.len.toNat) with hzero | hpos
  · rw [frag_of_no_frame p s hzero] at h; cases h
    exact transmitted_latched p s hzero
  cases hk : keyValid s with
  | false => rw [frag_without_key p s hs hk hfit hpos] at h; cases h
  | true =>
    obtain ⟨u, hu, hsent⟩ := frag_transmits p s hs hk hfit
    rw [hu] at h; cases h
    exact hsent

/-! ### The refinement (41_formatter.md R129) -/

/-- Settles O26. -/
theorem fragComputesFragment : Obligations.FragComputesFragment := by
  unfold Obligations.FragComputesFragment
  intro s hs hk hfit
  rw [← frameCount_eq] at hfit
  obtain ⟨t, hfrag, hsent⟩ := frag_transmits Config.params s hs hk hfit
  refine ⟨_, _, exec_of_body_ok .frag hfrag, fragment_payloadOf _ s hfit, ?_, hsent.fidx, hsent.tlen, rfl, ?_, ?_, ?_, ?_,
    ?_⟩
  · rw [List.length_map, List.length_range]; exact hsent.count
  · intro i hi o ho
    rw [List.length_map, List.length_range] at hi
    rw [fmemByte_writeBack, ← readSlot_getElem _ t i o ho]
    simp only [hsent.slots i hi, List.getElem_map, List.getElem_range]
  · intro a ha
    rw [List.length_map, List.length_range] at ha
    rw [fmemByte_writeBack, hsent.beyond a ha]
  · intro f hf
    have hpos : 0 < frameCount s.len.toNat := Nat.pos_of_ne_zero fun hzero => by simp [hzero] at hf
    rw [List.getLast?_map, List.getLast?_range, if_neg hpos.ne'] at hf
    obtain rfl := Option.some.inj hf
    obtain ⟨hfields, hacc⟩ := hsent.last hpos
    exact ⟨by rw [writeBack_fields, ← hfields, unpack_pack], hacc⟩
  · intro hnil
    exact hsent.none (by simpa using hnil)
  · exact congrArg (writeBack .ok) hsent.rest

/-! ### The laws of a produced sequence (41_formatter.md R130) -/

/-- The fields of a frame, read from the bytes of the slot that holds it. -/
theorem fields_of_readSlot (p : Params) (s : State) (i : Nat) (x : Fields) (h : readSlot p s i = pack x) :
    fmemByte p s (32 * i) = x.sflag ∧ fmemByte p s (32 * i + 31) = x.eflag ∧
    dec16 (fmemByte p s (32 * i + 1)) (fmemByte p s (32 * i + 2)) = x.opc ∧
    dec16 (fmemByte p s (32 * i + 3)) (fmemByte p s (32 * i + 4)) = x.pkt ∧
    dec16 (fmemByte p s (32 * i + 5)) (fmemByte p s (32 * i + 6)) = x.exp ∧
    dec16 (fmemByte p s (32 * i + 29)) (fmemByte p s (32 * i + 30)) = x.csum := by
  have hx : unpack (readSlot p s i) = x := by rw [h, unpack_pack]
  simp only [← hx, unpack, readSlot_getElem, Nat.add_zero, and_self]

theorem headerBytes_of_readSlot (p : Params) (s : State) (i : Nat) (x : Fields) (h : readSlot p s i = pack x) :
    (List.range 7).map (fun o => fmemByte p s (32 * i + o)) = headerBytes x.sflag x.opc x.pkt x.exp := by
  have hx : unpack (readSlot p s i) = x := by rw [h, unpack_pack]
  rw [← hx, headerBytes_unpack]
  simp only [readSlot_getElem]
  rfl

/-- Settles O28. -/
theorem producedFramesObeyTheSequenceLaws : Obligations.ProducedFramesObeyTheSequenceLaws := by
  unfold Obligations.ProducedFramesObeyTheSequenceLaws
  intro s t hs hexec herr i hi
  obtain ⟨u, r, hfrag, rfl⟩ := (exec_eq_next .frag s t).1 hexec
  obtain rfl := (code_eq_zero_iff r).1 herr
  have hsent := transmitted_of_frag_ok Config.params s u hs hfrag
  rw [writeBack_count] at hi ⊢
  simp only [fmemByte_writeBack]
  have hslot := hsent.slots i (hsent.count ▸ hi)
  rw [sentFrame, ← hsent.count] at hslot
  obtain ⟨hsflag, heflag, hopc, hpkt, hexp, hcsum⟩ := fields_of_readSlot _ u i _ hslot
  refine ⟨hsflag, heflag, hopc, ?_, ?_, ?_⟩
  · have hlt := u.count.isLt
    rw [hpkt, BitVec.toNat_ofNat, Nat.mod_eq_of_lt (by omega)]
  · rw [hexp, BitVec.ofNat_toNat, BitVec.setWidth_eq]
  · rw [hcsum, headerBytes_of_readSlot _ u i _ hslot]; rfl

end Sys2Proof.Machine
end

section
/-! PROOFS. The receive path, one micro-command at a time (42_deformatter.md R154 to R158): the length test, the bytes
`DFM.STORE` stores, and how each body ends with a frame to work on and without one. -/

namespace Sys2Proof.Machine

open Sys2Proof.Safety

/-! ### The length test (42_deformatter.md R151) -/

/-- The last frame's real length can be determined: the test of `DFM.BEGIN` (42_deformatter.md R154). -/
abbrev State.lenKnown (s : State) : Bool := lenOk s.nfr.toNat (lenMode s) (lenValid s.ctrl) s.rxlen.toNat

theorem lenMode_eq_zscan {s : State} (h : s.ctrl.getLsbD 0 = true) : lenMode s = .zscan := if_pos h

theorem lenMode_eq_explicit {s : State} (h : s.ctrl.getLsbD 0 = false) : lenMode s = .explicit :=
  if_neg (ne_true_of_eq_false h)

/-- `LENV` is set and `RXLEN` calls for `NFR` frames: what `EXPLICIT` mode asks of the length. -/
theorem lenOk_explicit_iff (s : State) : lenOk s.nfr.toNat .explicit (lenValid s.ctrl) s.rxlen.toNat = true ↔
    s.ctrl.getLsbD 1 = true ∧ (s.rxlen.toNat + 21) / 22 = s.nfr.toNat := by
  rw [lenOk_explicit, frameCount_eq, lenValid]

theorem lenKnown_iff (s : State) : s.lenKnown = true ↔
    s.ctrl.getLsbD 0 = true ∨ (s.ctrl.getLsbD 1 = true ∧ (s.rxlen.toNat + 21) / 22 = s.nfr.toNat) := by
  cases hmode : s.ctrl.getLsbD 0 with
  | true => rw [State.lenKnown, lenMode_eq_zscan hmode, lenOk_zscan]; simp
  | false => rw [State.lenKnown, lenMode_eq_explicit hmode, lenOk_explicit_iff]; simp

theorem dfmBegin_refuses (s : State) (h : s.lenKnown = false) :
    dfmBegin s = .ended s.startReceive .truncationAmbiguous := if_neg (ne_true_of_eq_false h)

/-! ### How many bytes `DFM.STORE` stores (42_deformatter.md R153, R158) -/

/-- The first zero byte stops the scan; without one it runs over the whole data field. -/
theorem zscan_eq {d : Block} {n : Nat} (hn : n ≤ 22) (hbefore : ∀ j (_ : j < 22), j < n → d[j] ≠ 0)
    (hat : ∀ _ : n < 22, d[n] = 0) : zscan d = n := by
  rcases Nat.lt_or_eq_of_le hn with hlt | rfl
  · refine (List.findIdx_eq (by simpa using hlt)).2 ⟨by simpa using hat hlt, fun j hj => ?_⟩
    simpa using hbefore j (by omega) hj
  · rw [zscan, List.findIdx_eq_length.2]
    · simp
    · intro b hb
      obtain ⟨j, hj, rfl⟩ := List.mem_iff_getElem.1 hb
      rw [Vector.length_toList] at hj
      simpa using hbefore j hj hj

section
variable {s : State}

theorem storeCount_of_not_last (h : s.fidx.toNat < s.nfr.toNat - 1) : storeCount s = .ok 22 := by
  rw [storeCount, if_neg (by omega), if_pos h]

theorem storeCount_of_zscan (hf : s.fidx.toNat + 1 = s.nfr.toNat) (hmode : s.ctrl.getLsbD 0 = true) :
    storeCount s = .ok (zscan s.data) := by
  simp only [storeCount, if_neg (show ¬s.nfr.toNat ≤ s.fidx.toNat by omega),
    if_neg (show ¬s.fidx.toNat < s.nfr.toNat - 1 by omega), lenMode_eq_zscan hmode]

theorem storeCount_of_explicit (hf : s.fidx.toNat + 1 = s.nfr.toNat) (hmode : s.ctrl.getLsbD 0 = false) :
    storeCount s = if s.ctrl.getLsbD 1 = true ∧ (s.rxlen.toNat + 21) / 22 = s.nfr.toNat then
      .ok (s.rxlen.toNat - 22 * (s.nfr.toNat - 1)) else .error .truncationAmbiguous := by
  simp only [storeCount, if_neg (show ¬s.nfr.toNat ≤ s.fidx.toNat by omega),
    if_neg (show ¬s.fidx.toNat < s.nfr.toNat - 1 by omega), lenMode_eq_explicit hmode, lenOk_explicit_iff]

/-- The number of real bytes of frame `FIDX`, in the words of the rule. -/
theorem storeCount_eq {n : Nat} (hf : s.fidx.toNat < s.nfr.toNat)
    (h : if s.fidx.toNat < s.nfr.toNat - 1 then n = 22
      else if s.ctrl.getLsbD 0 = true then
        n ≤ 22 ∧ (∀ j (_ : j < 22), j < n → s.data[j] ≠ 0) ∧ (∀ _ : n < 22, s.data[n] = 0)
      else s.ctrl.getLsbD 1 = true ∧ (s.rxlen.toNat + 21) / 22 = s.nfr.toNat ∧
        n = s.rxlen.toNat - 22 * (s.nfr.toNat - 1)) : storeCount s = .ok n := by
  split at h
  case isTrue hnotLast => rw [storeCount_of_not_last hnotLast, h]
  case isFalse hlast =>
    have hlast : s.fidx.toNat + 1 = s.nfr.toNat := by omega
    split at h
    case isTrue hmode =>
      obtain ⟨hn, hbefore, hat⟩ := h
      rw [storeCount_of_zscan hlast hmode, zscan_eq hn hbefore hat]
    case isFalse hmode =>
      obtain ⟨hdeclared, hcount, rfl⟩ := h
      rw [storeCount_of_explicit hlast (Bool.eq_false_iff.2 hmode), if_pos ⟨hdeclared, hcount⟩]

end

/-! ### How the bodies end -/

theorem dfmUnpack_without_frame (p : Params) (s : State) (h : s.nfr.toNat ≤ s.fidx.toNat) :
    dfmUnpack p s = .ended s .opRange := if_pos h

theorem dfmStore_of_error (p : Params) {s : State} {e : Result} (h : storeCount s = .error e) :
    dfmStore p s = .ended s e := by
  rw [dfmStore, h]; rfl

theorem dfmStore_without_frame (p : Params) (s : State) (h : s.nfr.toNat ≤ s.fidx.toNat) :
    dfmStore p s = .ended s .opRange := dfmStore_of_error p (if_pos h)

/-- `s` after `DFM.STORE` stored the first `n` bytes of `DATA` (42_deformatter.md R158). -/
abbrev State.stored (s : State) (n : Nat) : State :=
  s.advanceStored (s.pmem.writeBytes (chunkBase s.fidx.toNat) (s.data.toList.take n))
    (BitVec.ofNat 32 (chunkBase s.fidx.toNat + n))

/-- A received frame has its chunk in `PMEM`, so under the invariants `DFM.STORE` does not fault. -/
theorem dfmStore_ok (p : Params) {s : State} {n : Nat} (hs : Inv p s) (h : storeCount s = .ok n) :
    dfmStore p s = .ended (s.stored n) .ok := by
  obtain ⟨t, r, hend, -⟩ := endsUnderInv_dfmStore p s hs
  rcases dfmStore_cases p s t r hend with ⟨-, he, -⟩ | ⟨m, rfl, hm, -, rfl⟩
  · rw [h] at he; cases he
  · rw [h] at hm; cases hm
    exact hend

theorem chunkBase_eq (i : Nat) : chunkBase i = 22 * i := rfl

theorem stored_outlen_toNat (s : State) {n : Nat} (hn : n ≤ 22) :
    (s.stored n).outlen.toNat = 22 * s.fidx.toNat + n := by
  have hfidx := s.fidx.isLt
  rw [advanceStored_outlen, chunkBase_eq, BitVec.toNat_ofNat, Nat.mod_eq_of_lt (by omega)]

@[simp] theorem pmemByte_writeBack (p : Params) (r : Result) (s : State) (a : Nat) :
    pmemByte p (writeBack r s) a = pmemByte p s a :=
  pmemByte_congr p s _ (writeBack_pmem r s) (writeBack_epoch r s) a

theorem pmemByte_stored_chunk (p : Params) (s : State) {n j : Nat} (hj : j < 22) (hjn : j < n) :
    pmemByte p (s.stored n) (22 * s.fidx.toNat + j) = s.data[j] := by
  rw [pmemByte_writeBytes p s (s.stored n) (22 * s.fidx.toNat) (s.data.toList.take n) _ (advanceStored_pmem ..)
    (advanceStored_epoch ..), dif_pos (by rw [List.length_take, Vector.length_toList]; omega)]
  simp

theorem pmemByte_stored_outside (p : Params) (s : State) {n a : Nat}
    (ha : a < 22 * s.fidx.toNat ∨ 22 * s.fidx.toNat + n ≤ a) : pmemByte p (s.stored n) a = pmemByte p s a := by
  rw [pmemByte_writeBytes p s (s.stored n) (22 * s.fidx.toNat) (s.data.toList.take n) _ (advanceStored_pmem ..)
    (advanceStored_epoch ..), dif_neg (by rw [List.length_take]; omega)]

/-! ### The commands -/

/-- Settles O31. -/
theorem dfmBeginTestsTheLength : Obligations.DfmBeginTestsTheLength := by
  unfold Obligations.DfmBeginTestsTheLength
  refine ⟨rfl, fun s => ?_⟩
  split
  case isTrue hlen => exact exec_of_body_ok .dfmBegin (dfmBegin_ok s ((lenKnown_iff s).2 hlen))
  case isFalse hlen =>
    exact exec_of_body_raises .dfmBegin .truncationAmbiguous (by decide)
      (dfmBegin_refuses s (Bool.eq_false_iff.2 (hlen ∘ (lenKnown_iff s).1)))

/-- Settles O32: `unpack` byte by byte, each byte of the frame where the slot has it. -/
theorem dfmUnpackReadsTheSlot : Obligations.DfmUnpackReadsTheSlot := by
  unfold Obligations.DfmUnpackReadsTheSlot
  intro s hs h
  refine ⟨_, exec_of_body_ok .dfmUnpack (dfmUnpack_ok _ s hs h), ?_, fun j hj => ?_⟩
  · apply State.ext <;> simp [unpack, readSlot_getElem]
  · rw [writeBack_data, setFields_data]
    simp [unpack, readSlot_getElem, Nat.add_assoc]

/-- Settles O33: the two tests of the body, in its order. -/
theorem dfmCheckComparesChecksumThenCount : Obligations.DfmCheckComparesChecksumThenCount := by
  unfold Obligations.DfmCheckComparesChecksumThenCount
  refine ⟨rfl, fun s => ?_⟩
  split
  case isTrue hsum => exact exec_of_body_raises .dfmCheck .checksumMismatch (by decide) (if_pos hsum)
  case isFalse hsum =>
    split
    case isTrue hexp =>
      exact exec_of_body_raises .dfmCheck .sequenceIncomplete (by decide) ((if_neg hsum).trans (if_pos hexp))
    case isFalse hexp => exact exec_of_body_ok .dfmCheck ((if_neg hsum).trans (if_neg hexp))

/-- Settles O34. -/
theorem dfmDecDeciphersTheDataField : Obligations.DfmDecDeciphersTheDataField := by
  unfold Obligations.DfmDecDeciphersTheDataField
  refine ⟨rfl, fun s => ?_⟩
  split
  case isTrue hkey => exact exec_of_body_ok .dfmDec (if_pos ((keyValid_iff s).2 hkey))
  case isFalse hkey => exact exec_of_body_raises .dfmDec .noKey (by decide) (if_neg (hkey ∘ (keyValid_iff s).1))

/-- Settles O35: the count of `storeCount_eq`, then the stored chunk and what lies outside it. -/
theorem dfmStoreAppendsTheRealBytes : Obligations.DfmStoreAppendsTheRealBytes := by
  unfold Obligations.DfmStoreAppendsTheRealBytes
  intro s n hs hf h
  have hcount := storeCount_eq hf h
  have hn := storeCount_le s n hcount
  refine ⟨_, exec_of_body_ok .dfmStore (dfmStore_ok _ hs hcount), by apply State.ext <;> simp,
    toNat_add_one_of_lt _ _ hf, stored_outlen_toNat s hn, hn, fun j hj hjn => ?_, fun a ha => ?_⟩
  · rw [pmemByte_writeBack, pmemByte_stored_chunk _ s hj hjn]
  · rw [pmemByte_writeBack, pmemByte_stored_outside _ s ha]

/-- Settles O36. -/
theorem receiveCommandsThatCannotGoOnWriteNothing : Obligations.ReceiveCommandsThatCannotGoOnWriteNothing := by
  unfold Obligations.ReceiveCommandsThatCannotGoOnWriteNothing
  refine ⟨fun s h => ⟨?_, ?_⟩, fun s hlast hmode hlen => ?_⟩
  · exact exec_of_body_raises .dfmUnpack .opRange (by decide) (dfmUnpack_without_frame _ s h)
  · exact exec_of_body_raises .dfmStore .opRange (by decide) (dfmStore_without_frame _ s h)
  · have herror : storeCount s = .error .truncationAmbiguous := by
      rw [storeCount_of_explicit hlast hmode, if_neg hlen]
    exact exec_of_body_raises .dfmStore .truncationAmbiguous (by decide) (dfmStore_of_error _ herror)

end Sys2Proof.Machine
end

section
/-! PROOFS. `DEFRAG` (42_deformatter.md R159): what its loop has recovered after the frames that pass, and the state a frame
that does not pass leaves (60_exceptions.md R192, R196). -/

namespace Sys2Proof.Machine

open Sys2Proof.Safety

/-! ### `DFM.BEGIN`, and then the loop -/

theorem defrag_of_bad_length (p : Params) (s : State) (h : s.lenKnown = false) :
    defrag p s = .ended s.startReceive .truncationAmbiguous := by
  rw [defrag, dfmBegin_refuses s h, andThen_of_ne_ok _ _ _ (by decide)]

theorem defrag_of_lenKnown (p : Params) (s : State) (h : s.lenKnown = true) :
    defrag p s = defragLoop p s.nfr.toNat s.startReceive := by
  rw [defrag, dfmBegin_ok s h, andThen_ok]; rfl

/-! ### A turn that raises -/

/-- The header checksum of a frame (40_crc.md R108). -/
def Fields.headerSum (x : Fields) : Half := hdrCsum x.sflag x.opc x.pkt x.exp

/-- What a turn on a frame raises, when it does: the checksum is tested first, then the count, then the key
(60_exceptions.md R196). -/
def turnError (x : Fields) (n : Half) : Result :=
  if x.headerSum ≠ x.csum then .checksumMismatch else if x.exp ≠ n then .sequenceIncomplete else .noKey

theorem turnError_ne_ok (x : Fields) (n : Half) : turnError x n ≠ .ok := by
  unfold turnError; split
  · decide
  · split <;> decide

/-- `s` after `DFM.UNPACK` and `DFM.CHECK` of a frame: what a turn that raises leaves. -/
def State.checked (s : State) (x : Fields) : State := (s.setFields x).setAcc x.headerSum

@[simp] theorem checked_fidx (s : State) (x : Fields) : (s.checked x).fidx = s.fidx := rfl

@[simp] theorem checked_stkerr (s : State) (x : Fields) : (s.checked x).stkerr = s.stkerr := rfl

@[simp] theorem checked_fmem (s : State) (x : Fields) : (s.checked x).fmem = s.fmem := rfl

theorem headerChecksum_setFields (s : State) (x : Fields) : (s.setFields x).headerChecksum = x.headerSum := rfl

theorem setAcc_setFields (s : State) (x : Fields) : (s.setFields x).setAcc x.headerSum = s.checked x := rfl

theorem framePasses_iff (p : Params) (s : State) (i : Nat) :
    framePasses p s i ↔ (unpack (readSlot p s i)).headerSum = (unpack (readSlot p s i)).csum ∧
      (unpack (readSlot p s i)).exp = s.nfr := Iff.rfl

theorem defragFrame_raises (p : Params) (s : State) (hs : Inv p s) (hf : s.fidx.toNat < s.nfr.toNat)
    (h : framePasses p s s.fidx.toNat → keyValid s = false) :
    defragFrame p s = .ended (s.checked (unpack (readSlot p s s.fidx.toNat)))
      (turnError (unpack (readSlot p s s.fidx.toNat)) s.nfr) := by
  obtain ⟨t, r, hend, -⟩ := endsUnderInv_defragFrame p s hs
  obtain ⟨a, c, rfl, rfl, hturn⟩ := defragFrame_cases p s t r hf hend
  rw [headerChecksum_setFields, setFields_csum, setFields_exp, setFields_nfr, setAcc_setFields] at hturn
  rcases hturn with ⟨rfl, hr⟩ | ⟨hsum, hexp, hk, -⟩
  · rw [hend]
    rcases hr with ⟨rfl, hsum⟩ | ⟨rfl, hsum, hexp⟩ | ⟨rfl, hsum, hexp, -⟩
    · rw [turnError, if_pos hsum]
    · rw [turnError, if_neg (not_not.2 hsum), if_pos hexp]
    · rw [turnError, if_neg (not_not.2 hsum), if_neg (not_not.2 hexp)]
  · rw [h ⟨hsum, hexp⟩] at hk; cases hk

/-- The turn that raises is the last of the loop. -/
theorem defragLoop_raises (p : Params) (n : Nat) (s : State) (hn : 0 < n) (hs : Inv p s) (hf : s.fidx.toNat < s.nfr.toNat)
    (h : framePasses p s s.fidx.toNat → keyValid s = false) :
    defragLoop p n s = .ended (s.checked (unpack (readSlot p s s.fidx.toNat)))
      (turnError (unpack (readSlot p s s.fidx.toNat)) s.nfr) := by
  obtain ⟨n, rfl⟩ := Nat.exists_eq_succ_of_ne_zero hn.ne'
  rw [defragLoop, if_pos hf, defragFrame_raises p s hs hf h, andThen_of_ne_ok _ _ _ (turnError_ne_ok _ _)]

/-! ### The frames that pass -/

/-- `u` is `s` after `DEFRAG` recovered the frames before frame `k` (42_deformatter.md R159). -/
structure Recovered (p : Params) (s : State) (k : Nat) (u : State) : Prop where
  inv : Inv p u
  fidx : u.fidx.toNat = k
  none : k = 0 → u.outlen = 0
  outlen : ∀ i, i + 1 = k → u.outlen.toNat = 22 * i + realAt p s i
  last : ∀ i, i + 1 = k → u.fields = { unpack (readSlot p s i) with data := plainAt p s i } ∧ u.acc = u.csum
  bytes : ∀ i j (_ : j < 22), i < k → j < realAt p s i → pmemByte p u (22 * i + j) = (plainAt p s i)[j]
  others : ∀ a, 22 * k ≤ a ∨ realAt p s (a / 22) ≤ a % 22 → pmemByte p u a = pmemByte p s a
  rest : u = { s with
    sflag := u.sflag, opc := u.opc, pkt := u.pkt, exp := u.exp, csum := u.csum, eflag := u.eflag, data := u.data
    acc := u.acc, fidx := u.fidx, outlen := u.outlen, pmem := u.pmem }

namespace Recovered

variable {p : Params} {s u : State} {k : Nat}

theorem nfr_eq (h : Recovered p s k u) : u.nfr = s.nfr := by rw [h.rest]

theorem fmem_eq (h : Recovered p s k u) : u.fmem = s.fmem := by rw [h.rest]

theorem epoch_eq (h : Recovered p s k u) : u.epoch = s.epoch := by rw [h.rest]

theorem stkerr_eq (h : Recovered p s k u) : u.stkerr = s.stkerr := by rw [h.rest]

theorem readSlot_eq (h : Recovered p s k u) (i : Nat) : readSlot p u i = readSlot p s i :=
  readSlot_congr p s u i h.fmem_eq h.epoch_eq

theorem framePasses_congr (h : Recovered p s k u) (i : Nat) : framePasses p u i ↔ framePasses p s i := by
  rw [framePasses_iff, framePasses_iff, h.readSlot_eq, h.nfr_eq]

end Recovered

section
variable (p : Params) (s : State)

/-- The first `k` turns of `DEFRAG`, on frames that pass. -/
theorem defrag_recovers (hs : Inv p s) (hk : keyValid s = true) (hlen : s.lenKnown = true)
    {k : Nat} (hle : k ≤ s.nfr.toNat) (hpass : ∀ i, i < k → framePasses p s i) :
    ∃ u, defrag p s = defragLoop p (s.nfr.toNat - k) u ∧ Recovered p s k u := by
  have hzero : s.startReceive.fidx.toNat + k = k := Nat.zero_add k
  obtain ⟨u, hloop, hfidx, hinv, hpmem, hlast, hnone, hrest⟩ :=
    defragLoop_pass p k s.startReceive (inv_dfmBegin p s _ _ hs (dfmBegin_ok s hlen)) hk hlen
      (hzero.symm ▸ hle) (fun i _ hi => hpass i (hzero ▸ hi))
  rw [hzero] at hfidx hlast
  simp only [hzero] at hpmem
  refine ⟨u, ?_, hinv, hfidx, fun h => ?_, ?_, ?_, ?_, ?_, hrest⟩
  · rw [defrag_of_lenKnown p s hlen, ← hloop, Nat.add_sub_cancel' hle]
  · rw [hnone h]; rfl
  · rintro i rfl
    exact (hlast i.succ_pos).1
  · rintro i rfl
    exact (hlast i.succ_pos).2
  · intro i j hj hi hreal
    have hdiv : (22 * i + j) / 22 = i := by omega
    have hmod : (22 * i + j) % 22 = j := by omega
    have hreal : j < realAt p s.startReceive i := hreal
    rw [hpmem, dif_pos (by rw [hdiv, hmod]; exact ⟨Nat.zero_le _, by omega, hreal⟩)]
    simp only [hdiv, hmod]; rfl
  · intro a ha
    rw [hpmem, dif_neg]
    · rfl
    · rintro ⟨-, hlt, hreal⟩
      have hreal : a % 22 < realAt p s (a / 22) := hreal
      omega

/-- `DEFRAG` on a sequence of frames that pass. -/
theorem defrag_of_all_pass (hs : Inv p s) (hk : keyValid s = true) (hlen : s.lenKnown = true)
    (hpass : ∀ i, i < s.nfr.toNat → framePasses p s i) :
    ∃ u, defrag p s = .ended u .ok ∧ Recovered p s s.nfr.toNat u := by
  obtain ⟨u, hloop, hu⟩ := defrag_recovers p s hs hk hlen le_rfl hpass
  exact ⟨u, by rw [hloop, Nat.sub_self]; rfl, hu⟩

/-- `DEFRAG` up to the first frame that does not pass. -/
theorem defrag_of_offending_frame (hs : Inv p s) (hk : keyValid s = true) (hlen : s.lenKnown = true)
    {k : Nat} (hlt : k < s.nfr.toNat) (hpass : ∀ i, i < k → framePasses p s i) (hbad : ¬framePasses p s k) :
    ∃ u, defrag p s =
      .ended (u.checked (unpack (readSlot p s k))) (turnError (unpack (readSlot p s k)) u.nfr) ∧ Recovered p s k u := by
  obtain ⟨u, hloop, hu⟩ := defrag_recovers p s hs hk hlen hlt.le hpass
  refine ⟨u, ?_, hu⟩
  rw [hloop, defragLoop_raises p _ u (by omega) hu.inv (by rw [hu.fidx, hu.nfr_eq]; exact hlt)
    (fun h => absurd (hu.fidx ▸ h) (hbad ∘ (hu.framePasses_congr k).1)), hu.fidx, hu.readSlot_eq]

end

/-! ### Where `DEFRAG` stops (42_deformatter.md R159, 60_exceptions.md R192, R196) -/

/-- `u` after a turn raised on the frame `x` and the error was recorded. -/
def State.raised (u : State) (x : Fields) : State := errorRecorded (turnError x u.nfr).code (u.checked x)

section
variable (u : State) (x : Fields)

@[simp] theorem raised_fields : (u.raised x).fields = x := rfl

theorem raised_acc : (u.raised x).acc = hdrCsum (u.raised x).sflag (u.raised x).opc (u.raised x).pkt (u.raised x).exp := rfl

@[simp] theorem raised_fidx : (u.raised x).fidx = u.fidx := rfl

@[simp] theorem raised_outlen : (u.raised x).outlen = u.outlen := rfl

@[simp] theorem raised_pmem : (u.raised x).pmem = u.pmem := rfl

@[simp] theorem raised_fmem : (u.raised x).fmem = u.fmem := rfl

@[simp] theorem pmemByte_raised (p : Params) (a : Nat) : pmemByte p (u.raised x) a = pmemByte p u a := rfl

/-- The recorded code, in the order of the tests: checksum, count, key (60_exceptions.md R196). -/
theorem raised_err : (u.raised x).err =
    if (u.raised x).acc ≠ (u.raised x).csum then 2 else if (u.raised x).exp ≠ u.nfr then 3 else 6 := by
  have hcode : (turnError x u.nfr).code = if x.headerSum ≠ x.csum then 2 else if x.exp ≠ u.nfr then 3 else 6 := by
    unfold turnError; split
    · rfl
    · split <;> rfl
  exact hcode

/-- A frame that does not pass is reported by its checksum or its count. -/
theorem raised_err_of_not_pass (h : ¬(x.headerSum = x.csum ∧ x.exp = u.nfr)) :
    (u.raised x).err = if (u.raised x).acc ≠ (u.raised x).csum then 2 else 3 := by
  rw [raised_err]
  refine ite_congr rfl (fun _ => rfl) fun hsum => if_pos fun hexp => ?_
  exact h ⟨not_not.1 hsum, hexp⟩

end

theorem exec_defrag_raises {s u : State} {x : Fields}
    (h : defrag Config.params s = .ended (u.checked x) (turnError x u.nfr)) : exec .defrag s = .next (u.raised x) :=
  exec_of_body_raises .defrag _ (turnError_ne_ok x u.nfr) h

/-- Every frame but the last has a full data field (42_deformatter.md R152). -/
theorem realAt_of_not_last (p : Params) (s : State) {i : Nat} (h : i + 1 < s.nfr.toNat) : realAt p s i = 22 :=
  if_pos (by omega)

theorem Recovered.outlen_of_lt {p : Params} {s u : State} {k : Nat} (h : Recovered p s k u) (hk : k < s.nfr.toNat) :
    u.outlen.toNat = 22 * k := by
  cases k with
  | zero => rw [h.none rfl]; rfl
  | succ i => rw [h.outlen i rfl, realAt_of_not_last p s hk]; omega

/-- Settles O38: the frames before `k` are recovered, then the turn on frame `k` raises. -/
theorem defragStopsAtTheOffendingFrame : Obligations.DefragStopsAtTheOffendingFrame := by
  unfold Obligations.DefragStopsAtTheOffendingFrame
  intro s k hs hk hlen hlt hpass hbad
  obtain ⟨u, hdefrag, hu⟩ := defrag_of_offending_frame Config.params s hs hk hlen hlt hpass hbad
  rw [framePasses_iff, ← hu.nfr_eq] at hbad
  refine ⟨_, exec_defrag_raises hdefrag, ?_, ?_, ?_, ?_, ?_, fun i j hj hi => ?_, fun a ha => ?_, ?_⟩
  · rw [raised_fidx, hu.fidx]
  · rw [raised_outlen, hu.outlen_of_lt hlt]
  · rw [raised_fields]
  · exact raised_acc _ _
  · exact raised_err_of_not_pass _ _ hbad
  · rw [pmemByte_raised]
    exact hu.bytes i j hj hi (by rw [realAt_of_not_last _ s (by omega)]; exact hj)
  · rw [pmemByte_raised]
    exact hu.others a (.inl ha)
  · rw [raised_fmem, hu.fmem_eq]

/-- Without a key the first turn raises. -/
theorem defrag_without_key (p : Params) (s : State) (hs : Inv p s) (hk : keyValid s = false) (hpos : 0 < s.nfr.toNat)
    (hlen : s.lenKnown = true) :
    defrag p s = .ended (s.startReceive.checked (unpack (readSlot p s 0)))
      (turnError (unpack (readSlot p s 0)) s.startReceive.nfr) := by
  have hfidx : s.startReceive.fidx.toNat = 0 := rfl
  rw [defrag_of_lenKnown p s hlen, defragLoop_raises p _ s.startReceive hpos
    (inv_dfmBegin _ s _ _ hs (dfmBegin_ok s hlen)) hpos (fun _ => hk), hfidx,
    readSlot_congr p s s.startReceive 0 (startReceive_fmem s) (startReceive_epoch s)]

/-- Settles O39: `DFM.BEGIN` refuses the length, or the first turn raises. -/
theorem defragWithoutAKeyStopsAtTheFirstFrame : Obligations.DefragWithoutAKeyStopsAtTheFirstFrame := by
  unfold Obligations.DefragWithoutAKeyStopsAtTheFirstFrame
  refine ⟨fun s hlen => ?_, fun s hs hk hpos hlen => ?_⟩
  · exact exec_of_body_raises .defrag .truncationAmbiguous (by decide) (defrag_of_bad_length _ s hlen)
  · refine ⟨_, exec_defrag_raises (defrag_without_key _ s hs hk hpos hlen), ?_, ?_, ?_, ?_, ?_, ?_, ?_⟩
    · rw [raised_fidx, startReceive_fidx]
    · rw [raised_outlen, startReceive_outlen]
    · rw [raised_pmem, startReceive_pmem]
    · rw [raised_fmem, startReceive_fmem]
    · rw [raised_fields]
    · exact raised_acc _ _
    · exact raised_err _ _

end Sys2Proof.Machine
end

section
/-! PROOFS. `DEFRAG` against the contract `defragment` (42_deformatter.md R150, R159): on every sequence of frames they end
alike. -/

namespace Sys2Proof.Machine

open Sys2Proof.Safety

/-! ### The contract on the frames of a state (42_deformatter.md R150) -/

/-- The real bytes of slot `i`, decrypted. -/
def realBytes (p : Params) (s : State) (i : Nat) : List Byte := (plainAt p s i).toList.take (realAt p s i)

/-- What `defragment` makes of the slots of `s`, under the key, the length policy and the length in its registers. -/
abbrev contract (p : Params) (s : State) : Except Result (List Byte) :=
  defragment p (framesOf p s) s.key (lenMode s) (lenValid s.ctrl) s.rxlen.toNat

/-- The loop of `defragment` on the slots of `s` from slot `i` on, `m` of them. -/
abbrev contractFrom (p : Params) (s : State) (i m : Nat) : Except Result (List Byte) :=
  defragmentFrom p s.key (lenMode s) s.rxlen.toNat s.nfr.toNat i ((List.range' i m).map (readSlot p s))

section
variable (p : Params) (s : State)

theorem contract_of_lenKnown (hlen : s.lenKnown = true) : contract p s = contractFrom p s 0 s.nfr.toNat := by
  rw [contract, defragment, framesOf, List.length_map, List.length_range, if_pos hlen, List.range_eq_range']

theorem contract_of_bad_length (hlen : s.lenKnown = false) : contract p s = .error .truncationAmbiguous := by
  rw [contract, defragment, framesOf, List.length_map, List.length_range, if_neg (ne_true_of_eq_false hlen)]

/-- The contract on a frame that passes: its real bytes, and then those of the frames after it. -/
theorem contractFrom_of_pass {i : Nat} (m : Nat) (h : framePasses p s i) :
    contractFrom p s i (m + 1) = (contractFrom p s (i + 1) m).map (realBytes p s i ++ ·) := by
  obtain ⟨hsum, hexp⟩ := h
  unfold contractFrom
  rw [List.range'_succ, List.map_cons, defragmentFrom, if_neg (not_not.2 hsum),
    if_neg (not_not.2 (congrArg BitVec.toNat hexp))]
  split
  next e hrest => rw [hrest]; rfl
  next out hrest => rw [hrest]; rfl

/-- The contract on a frame that does not pass. -/
theorem contractFrom_of_not_pass {i : Nat} (m : Nat) (h : ¬framePasses p s i) :
    contractFrom p s i (m + 1) = .error (turnError (unpack (readSlot p s i)) s.nfr) := by
  unfold contractFrom turnError Fields.headerSum
  rw [List.range'_succ, List.map_cons, defragmentFrom]
  split
  case isTrue hsum => rfl
  case isFalse hsum =>
    have hexp : (unpack (readSlot p s i)).exp ≠ s.nfr := fun hexp => h ⟨not_not.1 hsum, hexp⟩
    rw [if_pos (mt BitVec.eq_of_toNat_eq hexp), if_pos hexp]

theorem contractFrom_of_all_pass (m i : Nat) (h : ∀ j, i ≤ j → j < i + m → framePasses p s j) :
    contractFrom p s i m = .ok ((List.range' i m).flatMap (realBytes p s)) := by
  induction m generalizing i with
  | zero => rfl
  | succ m ih =>
    rw [contractFrom_of_pass p s m (h i le_rfl (by omega)), ih (i + 1) fun j hj hlt => h j (by omega) (by omega)]
    rfl

/-- The first frame that does not pass decides. -/
theorem contractFrom_of_offending_frame (m i : Nat) {k : Nat} (hik : i ≤ k) (hk : k < i + m)
    (hpass : ∀ j, i ≤ j → j < k → framePasses p s j) (hbad : ¬framePasses p s k) :
    contractFrom p s i m = .error (turnError (unpack (readSlot p s k)) s.nfr) := by
  induction m generalizing i with
  | zero => omega
  | succ m ih =>
    rcases Nat.eq_or_lt_of_le hik with rfl | hlt
    · exact contractFrom_of_not_pass p s m hbad
    · rw [contractFrom_of_pass p s m (hpass i le_rfl hlt),
        ih (i + 1) hlt (by omega) fun j hj hjk => hpass j (by omega) hjk]
      rfl

/-! ### The recovered payload, byte by byte -/

/-- The payload the contract recovers from the first `n` slots. -/
def payloadFrom (n : Nat) : List Byte := (List.range n).flatMap (realBytes p s)

theorem payloadFrom_succ (n : Nat) : payloadFrom p s (n + 1) = payloadFrom p s n ++ realBytes p s n := by
  rw [payloadFrom, List.range_succ, List.flatMap_append, List.flatMap_singleton]; rfl

theorem realAt_le (hlen : s.lenKnown = true) (i : Nat) : realAt p s i ≤ 22 := realLen_le _ _ _ _ _ _ hlen

theorem realBytes_length {i : Nat} (h : realAt p s i ≤ 22) : (realBytes p s i).length = realAt p s i := by
  rw [realBytes, List.length_take, Vector.length_toList, min_eq_left h]

/-- The frames before the last one are full. -/
theorem payloadFrom_length {n : Nat} (h : n < s.nfr.toNat) : (payloadFrom p s n).length = 22 * n := by
  induction n with
  | zero => rfl
  | succ n ih =>
    have hreal := realAt_of_not_last p s h
    rw [payloadFrom_succ, List.length_append, ih (by omega), realBytes_length p s hreal.le, hreal, Nat.mul_succ]

/-- Byte `j` of frame `i` is byte `22 * i + j` of the payload. -/
theorem payloadFrom_getElem? {n i j : Nat} (hn : n ≤ s.nfr.toNat) (hi : i < n) (hj : j < 22) (hreal : j < realAt p s i) :
    (payloadFrom p s n)[22 * i + j]? = some (plainAt p s i)[j] := by
  induction n with
  | zero => omega
  | succ n ih =>
    have hlength := payloadFrom_length p s hn
    rw [payloadFrom_succ]
    rcases Nat.lt_succ_iff_lt_or_eq.1 hi with hlt | rfl
    · rw [List.getElem?_append_left (by omega), ih (by omega) hlt]
    · rw [List.getElem?_append_right (by omega), hlength, Nat.add_sub_cancel_left, realBytes,
        List.getElem?_take_of_lt hreal]
      simp [hj]

/-- The addresses of the payload are those of the real bytes. -/
theorem lt_payloadFrom_length_iff (hlen : s.lenKnown = true) (a : Nat) :
    a < (payloadFrom p s s.nfr.toNat).length ↔ a / 22 < s.nfr.toNat ∧ a % 22 < realAt p s (a / 22) := by
  rcases hn : s.nfr.toNat with _ | m
  · simp [payloadFrom]
  · have hle := realAt_le p s hlen m
    rw [payloadFrom_succ, List.length_append, payloadFrom_length p s (by omega), realBytes_length p s hle]
    by_cases hlast : a / 22 = m
    · rw [hlast]; omega
    · have hfull : a / 22 < m → realAt p s (a / 22) = 22 := fun hlt => realAt_of_not_last p s (by omega)
      omega

theorem Recovered.outlen_eq {u : State} (h : Recovered p s s.nfr.toNat u) (hlen : s.lenKnown = true) :
    u.outlen.toNat = (payloadFrom p s s.nfr.toNat).length := by
  rcases hn : s.nfr.toNat with _ | m
  · rw [h.none hn]; rfl
  · have hle := realAt_le p s hlen m
    rw [h.outlen m hn.symm, payloadFrom_succ, List.length_append, payloadFrom_length p s (by omega),
      realBytes_length p s hle]

/-- The recovered bytes stand in `PMEM` as the payload has them. -/
theorem Recovered.payload_getElem {u : State} (h : Recovered p s s.nfr.toNat u) (hlen : s.lenKnown = true) (a : Nat)
    (ha : a < (payloadFrom p s s.nfr.toNat).length) : pmemByte p u a = (payloadFrom p s s.nfr.toNat)[a] := by
  obtain ⟨hi, hreal⟩ := (lt_payloadFrom_length_iff p s hlen a).1 ha
  have hj : a % 22 < 22 := Nat.mod_lt a (by decide)
  have hpmem := h.bytes (a / 22) (a % 22) hj hi hreal
  have hpayload := payloadFrom_getElem? p s le_rfl hi hj hreal
  rw [Nat.div_add_mod] at hpmem hpayload
  exact hpmem.trans (List.getElem?_eq_some_iff.1 hpayload).2.symm

/-- The bytes from the payload's end upward are left. -/
theorem Recovered.beyond_payload {u : State} (h : Recovered p s s.nfr.toNat u) (hlen : s.lenKnown = true) (a : Nat)
    (ha : (payloadFrom p s s.nfr.toNat).length ≤ a) : pmemByte p u a = pmemByte p s a := by
  have hout := mt (lt_payloadFrom_length_iff p s hlen a).2 (not_lt.2 ha)
  exact h.others a (by omega)

end

/-! ### The refinement (42_deformatter.md R159) -/

/-- What holds of every frame, or fails at a first one. -/
theorem forall_lt_or_first_failure (P : Nat → Prop) (n : Nat) :
    (∀ i, i < n → P i) ∨ ∃ k, k < n ∧ (∀ i, i < k → P i) ∧ ¬P k := by
  classical
  by_cases hsome : ∃ k, k < n ∧ ¬P k
  · obtain ⟨hlt, hbad⟩ := Nat.find_spec hsome
    exact .inr ⟨_, hlt, fun i hi => not_not.1 fun hfails => Nat.find_min hsome hi ⟨hi.trans hlt, hfails⟩, hbad⟩
  · exact .inl fun i hi => not_not.1 fun hfails => hsome ⟨i, hi, hfails⟩

/-- `DEFRAG` and its contract end alike: with the payload recovered, or with the same error and `FMEM` unchanged. -/
theorem defrag_refines_defragment (p : Params) (s : State) (hs : Inv p s) (hk : keyValid s = true) :
    (∃ u, defrag p s = .ended u .ok ∧ Recovered p s s.nfr.toNat u ∧ s.lenKnown = true ∧
      contract p s = .ok (payloadFrom p s s.nfr.toNat)) ∨
    (∃ t e, e ≠ .ok ∧ defrag p s = .ended t e ∧ t.stkerr = s.stkerr ∧ t.fmem = s.fmem ∧ contract p s = .error e) := by
  cases hlen : s.lenKnown with
  | false =>
    exact .inr ⟨_, _, by decide, defrag_of_bad_length p s hlen, startReceive_stkerr s, startReceive_fmem s,
      contract_of_bad_length p s hlen⟩
  | true =>
    rw [contract_of_lenKnown p s hlen]
    rcases forall_lt_or_first_failure (framePasses p s) s.nfr.toNat with hall | ⟨k, hlt, hpass, hbad⟩
    · obtain ⟨u, hdefrag, hu⟩ := defrag_of_all_pass p s hs hk hlen hall
      refine .inl ⟨u, hdefrag, hu, rfl, ?_⟩
      rw [contractFrom_of_all_pass p s _ 0 fun i _ hi => hall i (by omega), payloadFrom, List.range_eq_range']
    · obtain ⟨u, hdefrag, hu⟩ := defrag_of_offending_frame p s hs hk hlen hlt hpass hbad
      rw [hu.nfr_eq] at hdefrag
      exact .inr ⟨_, _, turnError_ne_ok _ _, hdefrag, (checked_stkerr _ _).trans hu.stkerr_eq,
        (checked_fmem _ _).trans hu.fmem_eq,
        contractFrom_of_offending_frame p s _ 0 k.zero_le (by omega) (fun i _ => hpass i) hbad⟩

/-- Settles O37: `defrag_refines_defragment`, and what the recovered state holds. -/
theorem defragComputesDefragment : Obligations.DefragComputesDefragment := by
  unfold Obligations.DefragComputesDefragment
  intro s hs hk
  rcases defrag_refines_defragment Config.params s hs hk with
    ⟨u, hdefrag, hu, hlen, hok⟩ | ⟨t, e, he, hdefrag, hstkerr, hfmem, herror⟩
  case inl =>
    refine ⟨fun out hout => ?_, fun e he => (by cases hok.symm.trans he)⟩
    obtain rfl := Except.ok.inj (hok.symm.trans hout)
    refine ⟨_, exec_of_body_ok .defrag hdefrag, rfl, hu.stkerr_eq, BitVec.eq_of_toNat_eq hu.fidx, hu.outlen_eq _ s hlen,
      fun a ha => ?_, fun a ha => ?_, fun f hf => ?_, congrArg (writeBack .ok) hu.rest⟩
    · rw [pmemByte_writeBack]; exact hu.payload_getElem _ s hlen a ha
    · rw [pmemByte_writeBack]; exact hu.beyond_payload _ s hlen a ha
    · have hpos : 0 < s.nfr.toNat := Nat.pos_of_ne_zero fun hzero => by simp [framesOf, hzero] at hf
      rw [framesOf, List.getLast?_map, List.getLast?_range, if_neg hpos.ne'] at hf
      obtain rfl := Option.some.inj hf
      rw [writeBack_fields]
      exact hu.last (s.nfr.toNat - 1) (by omega)
  case inr =>
    refine ⟨fun out hout => (by cases herror.symm.trans hout), fun e' he' => ?_⟩
    obtain rfl := Except.error.inj (herror.symm.trans he')
    exact ⟨_, exec_of_body_raises .defrag e he hdefrag, rfl, by rw [← hstkerr]; rfl, hfmem⟩

end Sys2Proof.Machine
end

section
/-! PROOFS. From one block to the other (42_deformatter.md section 3): `DEFRAG` recovers what `FRAG` was given (R161), and
reports a tampered header at its frame (R162). -/

namespace Sys2Proof.Machine

open Sys2Proof.Safety

/-! ### A receiver of the frames of a transmission -/

theorem realLen_explicit (i n rxlen : Nat) (d : Block) :
    realLen i n .explicit rxlen d = if i < n - 1 then 22 else rxlen - 22 * (n - 1) := rfl

theorem readSlot_eq_of_bytes (p : Params) (t u : State) (i : Nat)
    (h : ∀ o, o < 32 → fmemByte p u (32 * i + o) = fmemByte p t (32 * i + o)) : readSlot p u i = readSlot p t i := by
  apply Vector.ext
  intro o ho
  rw [readSlot_getElem p u i o ho, readSlot_getElem p t i o ho, h o ho]

theorem sentFrame_sum (p : Params) (s : State) (i : Nat) :
    (unpack (sentFrame p s i)).headerSum = (unpack (sentFrame p s i)).csum := by
  rw [sentFrame, frameOf, unpack_pack]; rfl

theorem sentFrame_exp (p : Params) (s : State) (i : Nat) :
    (unpack (sentFrame p s i)).exp = BitVec.ofNat 16 (frameCount s.len.toNat) := by
  rw [sentFrame, frameOf, unpack_pack]

theorem sentFrame_data (p : Params) (s : State) (i : Nat) :
    (unpack (sentFrame p s i)).data = p.enc s.key (plainBlock (payloadOf p s) i) := by
  rw [sentFrame, frameOf, unpack_pack]

section
variable {p : Params} {s t u : State} (hsent : Transmitted p s t) (hready : ReceiverReady p s.len s.key t u)
include hsent hready

theorem received_nfr : u.nfr.toNat = frameCount s.len.toNat := by rw [hready.frames, hsent.count]

/-- The declared length calls for the number of frames that were sent. -/
theorem received_lenKnown : u.lenKnown = true := by
  rw [State.lenKnown, hready.explicit, lenOk_explicit, hready.sideBand, received_nfr hsent hready]
  exact ⟨hready.declared, rfl⟩

/-- A frame that arrives as it was sent passes. -/
theorem received_passes {i : Nat} (hslot : readSlot p u i = sentFrame p s i) : framePasses p u i := by
  rw [framePasses_iff, hslot, sentFrame_exp, ← hsent.count, hready.frames, BitVec.ofNat_toNat, BitVec.setWidth_eq]
  exact ⟨sentFrame_sum p s i, rfl⟩

/-- The receiver takes the bytes of a frame that the sender put into it (42_deformatter.md R152, 41_formatter.md R122). -/
theorem received_realAt {i : Nat} (hi : i < frameCount s.len.toNat) : realAt p u i = chunkLen s.len.toNat i := by
  rw [realAt, hready.explicit, realLen_explicit, received_nfr hsent hready, hready.sideBand]
  split
  case isTrue hnotLast => exact (chunkLen_of_not_last _ i (by omega)).symm
  case isFalse hlast =>
    have hcount : i + 1 = frameCount s.len.toNat := by omega
    have hlength := chunkLen_last _ i hcount
    rw [← hcount]; omega

end

/-! ### The round trip (42_deformatter.md R161) -/

theorem plainBlock_payloadOf_getElem (p : Params) (s : State) {i j : Nat} (hj : j < 22) (h : j < chunkLen s.len.toNat i) :
    (plainBlock (payloadOf p s) i)[j] = pmemByte p s (22 * i + j) := by
  simp only [plainBlock_payloadOf, Vector.getElem_ofFn, if_pos h]

/-- Every frame arrives as it was sent, so every frame passes, and its real bytes are those of its chunk of the payload. -/
theorem defrag_recovers_payload {p : Params} {s t u : State} (hinverse : ∀ k d, p.dec k (p.enc k d) = d)
    (hsent : Transmitted p s t) (hready : ReceiverReady p s.len s.key t u)
    (hbytes : ∀ a, a < 32 * t.count.toNat → fmemByte p u a = fmemByte p t a) :
    ∃ v, defrag p u = .ended v .ok ∧ v.outlen = s.len ∧ ∀ a, a < s.len.toNat → pmemByte p v a = pmemByte p s a := by
  have hnfr := received_nfr hsent hready
  have hslot (i : Nat) (hi : i < frameCount s.len.toNat) : readSlot p u i = sentFrame p s i := by
    have hcount := hsent.count
    rw [← hsent.slots i hi]
    exact readSlot_eq_of_bytes p t u i fun o ho => hbytes _ (by omega)
  have hplain (i : Nat) (hi : i < frameCount s.len.toNat) : plainAt p u i = plainBlock (payloadOf p s) i := by
    rw [plainAt, hslot i hi, sentFrame_data, hready.sameKey, hinverse]
  obtain ⟨v, hdefrag, hv⟩ := defrag_of_all_pass p u hready.inv hready.keyed (received_lenKnown hsent hready)
    fun i hi => received_passes hsent hready (hslot i (hnfr ▸ hi))
  refine ⟨v, hdefrag, ?_, fun a ha => ?_⟩
  · apply BitVec.eq_of_toNat_eq
    rcases hn : frameCount s.len.toNat with _ | m
    · have hempty : s.len.toNat = 0 := Nat.le_zero.1 ((frameCount_le_iff _ 0).1 hn.le)
      rw [hv.none (hnfr.trans hn), hempty]; rfl
    · rw [hv.outlen m (by omega), received_realAt hsent hready (by omega), chunkLen_last _ m hn.symm]
  · have hi : a / 22 < frameCount s.len.toNat := by rw [frameCount_eq]; omega
    have hj : a % 22 < 22 := Nat.mod_lt a (by decide)
    have hreal : a % 22 < chunkLen s.len.toNat (a / 22) := by simp only [chunkLen, cap]; omega
    have hbyte := hv.bytes (a / 22) (a % 22) hj (hnfr ▸ hi) (by rwa [received_realAt hsent hready hi])
    simp only [hplain _ hi, plainBlock_payloadOf_getElem p s hj hreal, Nat.div_add_mod] at hbyte
    exact hbyte

/-- Settles O41: `FRAG` transmits the payload, and `DEFRAG` recovers what was transmitted. -/
theorem roundTripRecoversThePayload : Obligations.RoundTripRecoversThePayload := by
  unfold Obligations.RoundTripRecoversThePayload
  refine ⟨fun s => ⟨rfl, rfl⟩, fun p s hinverse hs hk hfit => ?_⟩
  obtain ⟨t, hfrag, hsent⟩ := frag_transmits p s hs hk ((frameCount_le_iff _ _).2 hfit)
  exact ⟨t, hfrag, fun u => defrag_recovers_payload hinverse hsent⟩

/-! ### A tampered header (42_deformatter.md R162) -/

/-- One different byte makes a different checksum (40_crc.md R107). -/
theorem crc16_ne_of_one_byte {m m' : List Byte} {o : Nat} (ho : o < m.length) (ho' : o < m'.length) (hne : m[o] ≠ m'[o])
    (hsame : ∀ j, j ≠ o → m[j]? = m'[j]?) : crc16 m ≠ crc16 m' := by
  have hbefore : m.take o = m'.take o := List.ext_getElem? fun j => by
    rw [List.getElem?_take, List.getElem?_take]
    split
    next hj => exact hsame j hj.ne
    next => rfl
  have hafter : m.drop (o + 1) = m'.drop (o + 1) := List.ext_getElem? fun j => by
    rw [List.getElem?_drop, List.getElem?_drop, hsame _ (by omega)]
  have hchange := oneChangedByteChangesTheChecksum (m.take o) (m.drop (o + 1)) m[o] m'[o] hne
  rwa [List.getElem_cons_drop, List.take_append_drop, hbefore, hafter, List.getElem_cons_drop,
    List.take_append_drop] at hchange

theorem dec16_inj {a b c d : Byte} (h : dec16 a b = dec16 c d) : a = c ∧ b = d := by
  have hhigh := congrArg (BitVec.extractLsb' 8 8) h
  have hlow := congrArg (BitVec.extractLsb' 0 8) h
  rw [dec16_high, dec16_high] at hhigh
  rw [dec16_low, dec16_low] at hlow
  exact ⟨hhigh, hlow⟩

theorem headerSum_unpack (f : Frame) : (unpack f).headerSum = crc16 (f.toList.take 7) := by
  have hbytes : f.toList.take 7 = [f[0], f[1], f[2], f[3], f[4], f[5], f[6]] := by
    apply List.ext_getElem
    · simp
    · intro j hj _
      have hj : j < 7 := by simpa using hj
      interval_cases j <;> simp
  rw [hbytes, ← headerBytes_unpack]; rfl

/-- Frames that agree on byte `j` agree on it in their headers. -/
theorem header_getElem?_congr {f g : Frame} {j : Nat} (h : ∀ _ : j < 7, f[j] = g[j]) :
    (f.toList.take 7)[j]? = (g.toList.take 7)[j]? := by
  rw [List.getElem?_take, List.getElem?_take]
  split
  next hj => simp [h hj, show j < 32 by omega]
  next => rfl

/-- A frame with one byte of its header or of its checksum changed fails the checksum test: the recomputed sum changes and
the stored one does not, or the other way round. -/
theorem headerSum_ne_of_tampered {f g : Frame} (hg : (unpack g).headerSum = (unpack g).csum) {o : Nat}
    (ho : o < 7 ∨ o = 29 ∨ o = 30) (hne : f[o] ≠ g[o]) (hsame : ∀ j (_ : j < 32), j ≠ o → f[j] = g[j]) :
    (unpack f).headerSum ≠ (unpack f).csum := by
  rcases Nat.lt_or_ge o 7 with hheader | hchecksum
  · have hcsum : (unpack f).csum = (unpack g).csum := by
      simp only [unpack, hsame 29 (by decide) (by omega), hsame 30 (by decide) (by omega)]
    rw [hcsum, ← hg, headerSum_unpack, headerSum_unpack]
    exact crc16_ne_of_one_byte (o := o) (by simpa using hheader) (by simpa using hheader) (by simpa using hne)
      fun j hj => header_getElem?_congr fun hj7 => hsame j (by omega) hj
  · have hsum : (unpack f).headerSum = (unpack g).headerSum := by
      rw [headerSum_unpack, headerSum_unpack]
      exact congrArg crc16 (List.ext_getElem? fun j => header_getElem?_congr fun hj => hsame j (by omega) (by omega))
    rw [hsum, hg]
    intro hcsum
    obtain ⟨h29, h30⟩ := dec16_inj hcsum
    rcases ho with h | rfl | rfl
    · omega
    · exact hne h29.symm
    · exact hne h30.symm

/-- Settles O42: the frames before `k` arrive as they were sent and pass, and frame `k` fails the checksum test. -/
theorem tamperedHeaderIsReportedAtItsFrame : Obligations.TamperedHeaderIsReportedAtItsFrame := by
  unfold Obligations.TamperedHeaderIsReportedAtItsFrame
  intro p s t u k o hs hfrag hready hk ho hne hsame
  have hsent := transmitted_of_frag_ok p s t hs hfrag
  have hcount := hsent.count
  have hslot (i : Nat) (hi : i < k) : readSlot p u i = sentFrame p s i := by
    rw [← hsent.slots i (by omega)]
    exact readSlot_eq_of_bytes p t u i fun j hj => hsame _ (by omega) (by omega)
  have hbad : (unpack (readSlot p u k)).headerSum ≠ (unpack (readSlot p u k)).csum := by
    refine headerSum_ne_of_tampered (sentFrame_sum p s k) ho ?_ fun j hj hjo => ?_
    · simp only [← hsent.slots k (by omega), readSlot_getElem _ _ k o (show o < 32 by omega)]
      exact hne
    · simp only [← hsent.slots k (by omega), readSlot_getElem _ _ k j hj]
      exact hsame _ (by omega) (by omega)
  obtain ⟨v, hdefrag, hv⟩ := defrag_of_offending_frame p u hready.inv hready.keyed (received_lenKnown hsent hready)
    (hready.frames ▸ hk) (fun i hi => received_passes hsent hready (hslot i hi)) fun hpass => hbad hpass.1
  rw [turnError, if_pos hbad] at hdefrag
  exact ⟨_, hdefrag, by rw [checked_fidx, hv.fidx]⟩

end Sys2Proof.Machine
end

section
/-! PROOFS. The system commands (43_system.md): what `NOP` and `CLRERR` change, and that every command ends with a result
(R183). -/

namespace Sys2Proof.Machine

/-! ### `NOP` and `CLRERR` (43_system.md R180, R181): the body, then the write-back of `OK` -/

theorem exec_nop (s : State) : exec .nop s = .next { s with err := 0 } := exec_of_body_ok .nop rfl

theorem exec_clrerr (s : State) : exec .clrerr s = .next { s with stkerr := 0, err := 0 } := exec_of_body_ok .clrerr rfl

/-- Settles O6. -/
theorem nopOnlyClearsErr : Obligations.NopOnlyClearsErr := ⟨rfl, exec_nop⟩

/-- Settles O7. -/
theorem clrerrOnlyClearsStkerrAndErr : Obligations.ClrerrOnlyClearsStkerrAndErr := ⟨rfl, exec_clrerr⟩

/-! ### Every command ends (43_system.md R183) -/

/-- Settles O46: under the invariants the command's body ends, by command (`endsUnderInv_bodyOf`), and `exec` writes its
result back. -/
theorem everyCommandEndsWithAResult : Obligations.EveryCommandEndsWithAResult := exec_answers_next

end Sys2Proof.Machine
end

section
/-! PROOFS. Errors and their reporting (60_exceptions.md): what the write-back makes of `STKERR` (R193), and the results
each command can have (R191). Both are read off how the command's body ends. -/

namespace Sys2Proof.Machine

/-! ### No body but that of `CLRERR` writes `STKERR` (60_exceptions.md R193) -/

theorem fragFrame_stkerr (p : Params) (s t : State) (r : Result) (hf : s.fidx.toNat < s.count.toNat)
    (h : fragFrame p s = .ended t r) : t.stkerr = s.stkerr := by
  rcases fragFrame_cases p s t r hf h with ⟨-, -, rfl⟩ | ⟨-, -, -, rfl⟩
  · simp
  · simp [fragTurn]

theorem frag_stkerr (p : Params) (s t : State) (r : Result) (h : frag p s = .ended t r) : t.stkerr = s.stkerr := by
  refine frag_keeps p (·.stkerr = s.stkerr) (fun a b q ha hb => ?_)
    (fun a b q ha hf hb => (fragFrame_stkerr p a b q hf hb).trans ha) s t r rfl h
  rcases fmtBegin_cases a b q hb with ⟨-, -, rfl⟩ | ⟨-, -, rfl⟩ <;> exact ha

theorem defragFrame_stkerr (p : Params) (s t : State) (r : Result) (hf : s.fidx.toNat < s.nfr.toNat)
    (h : defragFrame p s = .ended t r) : t.stkerr = s.stkerr := by
  obtain ⟨a, c, rfl, rfl, ⟨rfl, -⟩ | ⟨-, -, -, hstore⟩⟩ := defragFrame_cases p s t r hf h
  · simp
  · rcases dfmStore_cases p _ t r hstore with ⟨-, -, rfl⟩ | ⟨n, -, -, -, rfl⟩ <;> simp

theorem defrag_stkerr (p : Params) (s t : State) (r : Result) (h : defrag p s = .ended t r) : t.stkerr = s.stkerr := by
  refine defrag_keeps p (·.stkerr = s.stkerr) (fun a b q ha hb => ?_)
    (fun a b q ha hf hb => (defragFrame_stkerr p a b q hf hb).trans ha) s t r rfl h
  obtain ⟨rfl, -⟩ := dfmBegin_cases a b q hb
  exact ha

theorem bodyOf_stkerr (p : Params) (i : Instr) (s t : State) (r : Result) (hi : i ≠ .clrerr)
    (h : bodyOf p i s = .ended t r) : t.stkerr = s.stkerr := by
  cases i with
  | clrerr => exact absurd rfl hi
  | nop | crcInit | crcUpd b | fmtCsum => cases h; simp
  | fmtBegin => rcases fmtBegin_cases s t r h with ⟨-, -, rfl⟩ | ⟨-, -, rfl⟩ <;> simp
  | fmtHdr => rcases fmtHdr_cases p s t r h with ⟨-, -, rfl⟩ | ⟨-, -, rfl⟩ <;> simp
  | fmtLoad => rcases fmtLoad_cases p s t r h with ⟨-, -, rfl⟩ | ⟨-, -, rfl⟩ <;> simp
  | fmtEnc => rcases fmtEnc_cases p s t r h with ⟨-, -, rfl⟩ | ⟨-, -, rfl⟩ <;> simp
  | fmtPack => rcases fmtPack_cases p s t r h with ⟨-, -, rfl⟩ | ⟨-, -, -, rfl⟩ <;> simp
  | frag => exact frag_stkerr p s t r h
  | dfmBegin => obtain ⟨rfl, -⟩ := dfmBegin_cases s t r h; simp
  | dfmUnpack => rcases dfmUnpack_cases p s t r h with ⟨-, -, rfl⟩ | ⟨-, -, rfl⟩ <;> simp
  | dfmCheck => obtain ⟨rfl, -⟩ := dfmCheck_cases s t r h; simp
  | dfmDec => rcases dfmDec_cases p s t r h with ⟨-, -, rfl⟩ | ⟨-, -, rfl⟩ <;> simp
  | dfmStore => rcases dfmStore_cases p s t r h with ⟨-, -, rfl⟩ | ⟨n, -, -, -, rfl⟩ <;> simp
  | defrag => exact defrag_stkerr p s t r h

/-- The write-back's `STKERR` through the `ERR` it writes: a code of 0 leaves a `STKERR` of 0 as it is. -/
theorem writeBack_stkerr_eq_err (r : Result) (s : State) :
    (writeBack r s).stkerr = if s.stkerr = 0 then (writeBack r s).err else s.stkerr := by
  by_cases hr : r = .ok
  · subst hr
    rw [writeBack_ok]
    split
    case isTrue hs => exact hs
    case isFalse => rfl
  · rw [writeBack_of_ne_ok r s hr]

/-- Settles O48: `CLRERR` clears `STKERR`; every other body leaves it to the write-back. -/
theorem stickyErrorKeepsTheFirstCode : Obligations.StickyErrorKeepsTheFirstCode := by
  unfold Obligations.StickyErrorKeepsTheFirstCode
  intro i s t h
  by_cases hi : i = .clrerr
  · subst hi
    rw [exec_clrerr] at h
    cases h
    rfl
  · obtain ⟨u, r, hb, rfl⟩ := (exec_eq_next i s t).1 h
    rw [if_neg hi, writeBack_stkerr_eq_err, bodyOf_stkerr _ i s u r hi hb]

/-! ### The results of each command (60_exceptions.md R191) -/

/-- The table of R191 by command: `OK`, and the errors the command can raise. -/
def resultsOf : Instr → List Result
  | .nop | .clrerr | .crcInit | .crcUpd _ | .fmtCsum => [.ok]
  | .fmtBegin => [.ok, .capacityExceeded]
  | .fmtHdr | .fmtLoad | .fmtPack | .dfmUnpack => [.ok, .opRange]
  | .fmtEnc | .dfmDec => [.ok, .noKey]
  | .frag => [.ok, .capacityExceeded, .noKey]
  | .dfmBegin => [.ok, .truncationAmbiguous]
  | .dfmCheck => [.ok, .checksumMismatch, .sequenceIncomplete]
  | .dfmStore => [.ok, .truncationAmbiguous, .opRange]
  | .defrag => [.ok, .checksumMismatch, .sequenceIncomplete, .truncationAmbiguous, .noKey]

/-- The loop of `FRAG` works on frames that exist, so no turn raises `OpRange`. -/
theorem fragLoop_result (p : Params) (n : Nat) (s t : State) (r : Result) (h : fragLoop p n s = .ended t r) :
    r = .ok ∨ r = .noKey := by
  induction n generalizing s with
  | zero => cases h; exact .inl rfl
  | succ n ih =>
    unfold fragLoop at h
    split at h
    case isTrue hf =>
      rcases (andThen_eq_ended _ _ _ _).1 h with ⟨-, hturn⟩ | ⟨a, -, hrest⟩
      · rcases fragFrame_cases p s t r hf hturn with ⟨hr, -⟩ | ⟨hr, -⟩
        · exact .inr hr
        · exact .inl hr
      · exact ih a hrest
    case isFalse => cases h; exact .inl rfl

theorem frag_result (p : Params) (s t : State) (r : Result) (h : frag p s = .ended t r) : r ∈ resultsOf .frag := by
  rcases (andThen_eq_ended _ _ _ _).1 h with ⟨-, hbegin⟩ | ⟨a, -, hloop⟩
  · rcases fmtBegin_cases s t r hbegin with ⟨rfl, -⟩ | ⟨rfl, -⟩ <;> simp [resultsOf]
  · rcases fragLoop_result p _ a t r hloop with rfl | rfl <;> simp [resultsOf]

theorem dfmStore_result (p : Params) (s t : State) (r : Result) (h : dfmStore p s = .ended t r) :
    r = .ok ∨ r = .truncationAmbiguous ∨ (r = .opRange ∧ s.nfr.toNat ≤ s.fidx.toNat) := by
  rcases dfmStore_cases p s t r h with ⟨-, herror, -⟩ | ⟨n, hr, -⟩
  · rcases storeCount_error s r herror with hrange | ⟨hr, -⟩
    · exact .inr (.inr hrange)
    · exact .inr (.inl hr)
  · exact .inl hr

/-- A turn of `DEFRAG` works on a frame that exists, so its `DFM.STORE` does not raise `OpRange`. -/
theorem defragFrame_result (p : Params) (s t : State) (r : Result) (hf : s.fidx.toNat < s.nfr.toNat)
    (h : defragFrame p s = .ended t r) : r ∈ resultsOf .defrag := by
  obtain ⟨a, c, rfl, rfl, ⟨-, hraised⟩ | ⟨-, -, -, hstore⟩⟩ := defragFrame_cases p s t r hf h
  · rcases hraised with ⟨rfl, -⟩ | ⟨rfl, -⟩ | ⟨rfl, -⟩ <;> simp [resultsOf]
  · rcases dfmStore_result p _ t r hstore with rfl | rfl | ⟨-, hle⟩
    · simp [resultsOf]
    · simp [resultsOf]
    · simp at hle; omega

theorem defragLoop_result (p : Params) (n : Nat) (s t : State) (r : Result) (h : defragLoop p n s = .ended t r) :
    r ∈ resultsOf .defrag := by
  induction n generalizing s with
  | zero => cases h; simp [resultsOf]
  | succ n ih =>
    unfold defragLoop at h
    split at h
    case isTrue hf =>
      rcases (andThen_eq_ended _ _ _ _).1 h with ⟨-, hturn⟩ | ⟨a, -, hrest⟩
      · exact defragFrame_result p s t r hf hturn
      · exact ih a hrest
    case isFalse => cases h; simp [resultsOf]

theorem defrag_result (p : Params) (s t : State) (r : Result) (h : defrag p s = .ended t r) :
    r ∈ resultsOf .defrag := by
  rcases (andThen_eq_ended _ _ _ _).1 h with ⟨-, hbegin⟩ | ⟨a, -, hloop⟩
  · obtain ⟨-, ⟨rfl, -⟩ | ⟨rfl, -⟩⟩ := dfmBegin_cases s t r hbegin <;> simp [resultsOf]
  · exact defragLoop_result p _ a t r hloop

/-- Every command's body ends with a result its row of R191 lists. -/
theorem bodyOf_result (p : Params) (i : Instr) (s t : State) (r : Result) (h : bodyOf p i s = .ended t r) :
    r ∈ resultsOf i := by
  cases i with
  | nop | clrerr | crcInit | crcUpd b | fmtCsum => cases h; simp [resultsOf]
  | fmtBegin => rcases fmtBegin_cases s t r h with ⟨rfl, -⟩ | ⟨rfl, -⟩ <;> simp [resultsOf]
  | fmtHdr => rcases fmtHdr_cases p s t r h with ⟨rfl, -⟩ | ⟨rfl, -⟩ <;> simp [resultsOf]
  | fmtLoad => rcases fmtLoad_cases p s t r h with ⟨rfl, -⟩ | ⟨rfl, -⟩ <;> simp [resultsOf]
  | fmtEnc => rcases fmtEnc_cases p s t r h with ⟨rfl, -⟩ | ⟨rfl, -⟩ <;> simp [resultsOf]
  | fmtPack => rcases fmtPack_cases p s t r h with ⟨rfl, -⟩ | ⟨rfl, -⟩ <;> simp [resultsOf]
  | frag => exact frag_result p s t r h
  | dfmBegin => obtain ⟨-, ⟨rfl, -⟩ | ⟨rfl, -⟩⟩ := dfmBegin_cases s t r h <;> simp [resultsOf]
  | dfmUnpack => rcases dfmUnpack_cases p s t r h with ⟨rfl, -⟩ | ⟨rfl, -⟩ <;> simp [resultsOf]
  | dfmCheck => obtain ⟨-, ⟨rfl, -⟩ | ⟨rfl, -⟩ | ⟨rfl, -⟩⟩ := dfmCheck_cases s t r h <;> simp [resultsOf]
  | dfmDec => rcases dfmDec_cases p s t r h with ⟨rfl, -⟩ | ⟨rfl, -⟩ <;> simp [resultsOf]
  | dfmStore => rcases dfmStore_result p s t r h with rfl | rfl | ⟨rfl, -⟩ <;> simp [resultsOf]
  | defrag => exact defrag_result p s t r h

theorem exec_err_mem_codes (i : Instr) (s t : State) (h : exec i s = .next t) :
    t.err ∈ (resultsOf i).map Result.code := by
  obtain ⟨u, r, hb, rfl⟩ := (exec_eq_next i s t).1 h
  exact List.mem_map_of_mem (bodyOf_result _ i s u r hb)

/-- Settles O49: the codes of `resultsOf`, command by command. -/
theorem eachCommandHasOnlyItsResults : Obligations.EachCommandHasOnlyItsResults := by
  unfold Obligations.EachCommandHasOnlyItsResults
  intro i s t h
  have hcodes := exec_err_mem_codes i s t h
  cases i <;> exact hcodes

end Sys2Proof.Machine
end

section
/-! PROOFS. Reset (70_reset_and_hazards.md section 1): the registers `Reset` leaves (R220), and the first command on them
(R221). -/

namespace Sys2Proof.Machine

open Sys2Proof.Safety

/-- Settles O58. -/
theorem resetActionRestoresTheResetValues : Obligations.ResetActionRestoresTheResetValues := by
  unfold Obligations.ResetActionRestoresTheResetValues
  intro s rest h
  have hstep : step s = .next (resetBlock Config.params (s.setTodo rest)) := step_of_todo_cons s .reset rest h
  exact ⟨_, hstep, rfl⟩

/-! ### What the commands test, on the reset state (10_state.md R44) -/

theorem reset_without_key : ¬∀ j (_ : j < 16), State.reset.keyw[j] = true := by
  intro h
  have hfirst : State.reset.keyw[0] = false := Vector.getElem_replicate _
  exact Bool.false_ne_true (hfirst.symm.trans (h 0 (by decide)))

/-- `EXPLICIT` mode and `LENV = 0`. -/
theorem reset_lenKnown : State.reset.lenKnown = false := rfl

theorem reset_fits : frameCount State.reset.len.toNat ≤ State.reset.maxf.toNat := Nat.zero_le _

/-- The checksum of seven zero bytes (70_reset_and_hazards.md R221). -/
theorem crc16_zero_header : crc16 (headerBytes 0 0 0 0) = 0xF1CE := by decide +kernel

/-- Settles O59: each command's own rule, on the values of the reset state. -/
theorem commandsOnTheResetState : Obligations.CommandsOnTheResetState := by
  unfold Obligations.CommandsOnTheResetState
  simp only [List.forall_mem_cons]
  have hsum : State.reset.headerChecksum = 0xF1CE := crc16_zero_header
  refine ⟨?unchanged, ?opRange, ?noKey, ?badLength, ?check, ?csum, fun b => exec_crcUpd b _⟩
  case unchanged =>
    exact ⟨exec_nop _, exec_clrerr _, exec_crcInit _, exec_of_body_ok .fmtBegin (fmtBegin_ok _ reset_fits),
      exec_of_body_ok .frag (frag_of_no_frame _ State.reset rfl), List.forall_mem_nil _⟩
  case opRange =>
    have hsend := transmitCommandsWithoutAFrameRecordOpRange State.reset le_rfl
    obtain ⟨hunpack, hstore⟩ := receiveCommandsThatCannotGoOnWriteNothing.1 State.reset le_rfl
    exact ⟨hsend _ (.inl rfl), hsend _ (.inr (.inl rfl)), hsend _ (.inr (.inr rfl)), hunpack, hstore,
      List.forall_mem_nil _⟩
  case noKey =>
    exact ⟨(fmtEncEnciphersTheDataField.2 _).trans (if_neg reset_without_key),
      (dfmDecDeciphersTheDataField.2 _).trans (if_neg reset_without_key), List.forall_mem_nil _⟩
  case badLength =>
    exact ⟨exec_of_body_raises .dfmBegin .truncationAmbiguous (by decide) (dfmBegin_refuses _ reset_lenKnown),
      exec_of_body_raises .defrag .truncationAmbiguous (by decide) (defrag_of_bad_length _ _ reset_lenKnown),
      List.forall_mem_nil _⟩
  case check =>
    have hbody : dfmCheck State.reset = .ended (State.reset.setAcc 0xF1CE) .checksumMismatch := by
      rw [dfmCheck, hsum]; rfl
    exact exec_of_body_raises .dfmCheck .checksumMismatch (by decide) hbody
  case csum =>
    have hbody : fmtCsum State.reset = .ended (State.reset.setChecksum 0xF1CE) .ok := by rw [fmtCsum_eq, hsum]
    exact exec_of_body_ok .fmtCsum hbody

end Sys2Proof.Machine
end

section
/-! PROOFS. The result of `FRAG` depends only on its inputs (70_reset_and_hazards.md R225): two blocks that agree on those
take the same branch, and send the same frames. -/

namespace Sys2Proof.Machine

open Sys2Proof.Safety

/-- The two blocks agree on what `FRAG` reads (70_reset_and_hazards.md R225). -/
structure SameTransmitInputs (p : Params) (s u : State) : Prop where
  len : s.len = u.len
  maxf : s.maxf = u.maxf
  opcfg : s.opcfg = u.opcfg
  key : s.key = u.key
  keyw : s.keyw = u.keyw
  payload : ∀ a, a < s.len.toNat → pmemByte p s a = pmemByte p u a

/-- What two runs of `FRAG` with the result `r` have in common. -/
structure SameTransmission (p : Params) (r : Result) (t v : State) : Prop where
  count : t.count = v.count
  tlen : t.tlen = v.tlen
  fidx : t.fidx = v.fidx
  frames : r = .ok → ∀ a, a < 32 * t.count.toNat → fmemByte p t a = fmemByte p v a

section
variable {p : Params} {s u t v : State}

theorem SameTransmitInputs.frameCount_eq (h : SameTransmitInputs p s u) :
    frameCount s.len.toNat = frameCount u.len.toNat := by rw [h.len]

theorem SameTransmitInputs.keyValid_eq (h : SameTransmitInputs p s u) : keyValid s = keyValid u :=
  keyValid_congr u s h.keyw

theorem SameTransmitInputs.payloadOf_eq (h : SameTransmitInputs p s u) : payloadOf p s = payloadOf p u := by
  unfold payloadOf
  rw [← h.len]
  exact List.map_congr_left fun a ha => h.payload a (List.mem_range.1 ha)

theorem SameTransmitInputs.sentFrame_eq (h : SameTransmitInputs p s u) (i : Nat) : sentFrame p s i = sentFrame p u i := by
  rw [sentFrame, sentFrame, h.payloadOf_eq, h.key, h.opcfg, h.len]

/-- Slots that hold the same frames hold the same bytes. -/
theorem fmemByte_eq_of_readSlot_eq {n : Nat} (h : ∀ i, i < n → readSlot p t i = readSlot p v i) {a : Nat}
    (ha : a < 32 * n) : fmemByte p t a = fmemByte p v a := by
  have hoffset : a % 32 < 32 := Nat.mod_lt a (by decide)
  have hslot := h (a / 32) (by omega)
  rw [← Nat.div_add_mod a 32, ← readSlot_getElem p t _ _ hoffset, ← readSlot_getElem p v _ _ hoffset, hslot]

/-- Both blocks have sent the frames of the same payload. -/
theorem Transmitted.same (h : SameTransmitInputs p s u) (ht : Transmitted p s t) (hv : Transmitted p u v) :
    SameTransmission p .ok t v := by
  have hcount : t.count = v.count := BitVec.eq_of_toNat_eq (by rw [ht.count, hv.count, h.frameCount_eq])
  refine ⟨hcount, by rw [ht.tlen, hv.tlen, h.len], by rw [ht.fidx, hv.fidx, hcount], fun _ a ha => ?_⟩
  rw [ht.count] at ha
  exact fmemByte_eq_of_readSlot_eq (fun i hi => by
    rw [ht.slots i hi, hv.slots i (h.frameCount_eq ▸ hi), h.sentFrame_eq]) ha

/-- The two runs end alike: the payload does not fit, there is nothing to send, the frames are sent, or the key is
missing. -/
theorem frag_same (h : SameTransmitInputs p s u) (hs : Inv p s) (hu : Inv p u) :
    ∃ t v r, frag p s = .ended t r ∧ frag p u = .ended v r ∧ SameTransmission p r t v := by
  have hn := h.frameCount_eq
  rcases lt_or_ge s.maxf.toNat (frameCount s.len.toNat) with hlong | hfit
  · have hlong' : u.maxf.toNat < frameCount u.len.toNat := by rwa [← h.maxf, ← hn]
    exact ⟨_, _, _, frag_of_too_long p s hlong, frag_of_too_long p u hlong', rfl, rfl, rfl, nofun⟩
  have hfit' : frameCount u.len.toNat ≤ u.maxf.toNat := by rwa [← h.maxf, ← hn]
  rcases Nat.eq_zero_or_pos (frameCount s.len.toNat) with hzero | hpos
  · have hzero' := hn.symm.trans hzero
    exact ⟨_, _, _, frag_of_no_frame p s hzero, frag_of_no_frame p u hzero',
      (transmitted_latched p s hzero).same h (transmitted_latched p u hzero')⟩
  cases hk : keyValid s with
  | true =>
    obtain ⟨t, hfrag, ht⟩ := frag_transmits p s hs hk hfit
    obtain ⟨v, hfrag', hv⟩ := frag_transmits p u hu (h.keyValid_eq ▸ hk) hfit'
    exact ⟨t, v, .ok, hfrag, hfrag', ht.same h hv⟩
  | false =>
    have hlatched : s.latched.count = u.latched.count := by rw [startTransmit_count, startTransmit_count, hn]
    exact ⟨_, _, _, frag_without_key p s hs hk hfit hpos,
      frag_without_key p u hu (h.keyValid_eq ▸ hk) hfit' (hn ▸ hpos), hlatched, h.len, rfl, nofun⟩

end

/-- Settles O29. -/
theorem fragDependsOnlyOnItsInputs : Obligations.FragDependsOnlyOnItsInputs := by
  unfold Obligations.FragDependsOnlyOnItsInputs
  intro s u hs hu hlen hmaxf hopcfg hkey hkeyw hpayload
  obtain ⟨t, v, r, hfrag, hfrag', hsame⟩ := frag_same ⟨hlen, hmaxf, hopcfg, hkey, hkeyw, hpayload⟩ hs hu
  refine ⟨writeBack r t, writeBack r v, (exec_eq_next .frag s _).2 ⟨t, r, hfrag, rfl⟩,
    (exec_eq_next .frag u _).2 ⟨v, r, hfrag', rfl⟩, rfl, hsame.count, hsame.tlen, hsame.fidx, fun herr a ha => ?_⟩
  rw [fmemByte_writeBack, fmemByte_writeBack]
  exact hsame.frames ((code_eq_zero_iff r).1 herr) a ha

end Sys2Proof.Machine
end

section
/-! PROOFS. The result of `DEFRAG` depends only on its inputs (70_reset_and_hazards.md R225): two blocks that agree on those
stop at the same frame, and have stored the same bytes before it. -/

namespace Sys2Proof.Machine

open Sys2Proof.Safety

/-- The two blocks agree on what `DEFRAG` reads (70_reset_and_hazards.md R225). -/
structure SameReceiveInputs (p : Params) (s u : State) : Prop where
  nfr : s.nfr = u.nfr
  ctrl : s.ctrl = u.ctrl
  rxlen : s.rxlen = u.rxlen
  key : s.key = u.key
  keyw : s.keyw = u.keyw
  frames : ∀ a, a < 32 * s.nfr.toNat → fmemByte p s a = fmemByte p u a

/-- What two runs of `DEFRAG` with one result have in common. -/
structure SameReception (p : Params) (t v : State) : Prop where
  fidx : t.fidx = v.fidx
  outlen : t.outlen = v.outlen
  bytes : ∀ a, a < t.outlen.toNat → pmemByte p t a = pmemByte p v a

section
variable {p : Params} {s u t v : State}

namespace SameReceiveInputs

theorem lenMode_eq (h : SameReceiveInputs p s u) : lenMode s = lenMode u := lenMode_congr u s h.ctrl

theorem lenKnown_eq (h : SameReceiveInputs p s u) : s.lenKnown = u.lenKnown := by
  rw [State.lenKnown, State.lenKnown, h.lenMode_eq, h.nfr, h.ctrl, h.rxlen]

theorem keyValid_eq (h : SameReceiveInputs p s u) : keyValid s = keyValid u := keyValid_congr u s h.keyw

theorem readSlot_eq (h : SameReceiveInputs p s u) {i : Nat} (hi : i < s.nfr.toNat) : readSlot p s i = readSlot p u i :=
  readSlot_eq_of_bytes p u s i fun o ho => h.frames _ (by omega)

theorem framePasses_iff (h : SameReceiveInputs p s u) {i : Nat} (hi : i < s.nfr.toNat) :
    framePasses p s i ↔ framePasses p u i := by
  rw [framePasses, framePasses, h.readSlot_eq hi, h.nfr]

theorem plainAt_eq (h : SameReceiveInputs p s u) {i : Nat} (hi : i < s.nfr.toNat) : plainAt p s i = plainAt p u i := by
  rw [plainAt, plainAt, h.readSlot_eq hi, h.key]

theorem realAt_eq (h : SameReceiveInputs p s u) {i : Nat} (hi : i < s.nfr.toNat) : realAt p s i = realAt p u i := by
  rw [realAt, realAt, h.plainAt_eq hi, h.lenMode_eq, h.nfr, h.rxlen]

end SameReceiveInputs

/-- Nothing has been received yet. -/
theorem SameReception.start (p : Params) (s u : State) : SameReception p s.startReceive u.startReceive :=
  ⟨rfl, rfl, nofun⟩

/-- The frame a turn raises on goes to the frame registers only. -/
theorem SameReception.checked (h : SameReception p t v) (x : Fields) : SameReception p (t.checked x) (v.checked x) :=
  ⟨h.fidx, h.outlen, h.bytes⟩

/-- Every byte below `OUTLEN` is a real byte of a recovered frame. -/
theorem Recovered.real_of_lt_outlen {k : Nat} (h : Recovered p s k t) (hlen : s.lenKnown = true) (hle : k ≤ s.nfr.toNat)
    {a : Nat} (ha : a < t.outlen.toNat) : a / 22 < k ∧ a % 22 < realAt p s (a / 22) := by
  cases k with
  | zero => rw [h.none rfl] at ha; exact absurd ha (Nat.not_lt_zero a)
  | succ i =>
    have hreal := realAt_le p s hlen i
    rw [h.outlen i rfl] at ha
    rcases Nat.lt_or_ge (a / 22) i with hlt | hge
    · rw [realAt_of_not_last p s (i := a / 22) (by omega)]; omega
    · obtain rfl : a / 22 = i := by omega
      omega

/-- Both blocks have recovered the same `k` frames. -/
theorem Recovered.same {k : Nat} (h : SameReceiveInputs p s u) (hlen : s.lenKnown = true) (hle : k ≤ s.nfr.toNat)
    (ht : Recovered p s k t) (hv : Recovered p u k v) : SameReception p t v := by
  refine ⟨BitVec.eq_of_toNat_eq (ht.fidx.trans hv.fidx.symm), ?_, fun a ha => ?_⟩
  · cases k with
    | zero => rw [ht.none rfl, hv.none rfl]
    | succ i => exact BitVec.eq_of_toNat_eq (by rw [ht.outlen i rfl, hv.outlen i rfl, h.realAt_eq hle])
  · obtain ⟨hi, hreal⟩ := ht.real_of_lt_outlen hlen hle ha
    have hslot : a / 22 < s.nfr.toNat := hi.trans_le hle
    have hj : a % 22 < 22 := Nat.mod_lt a (by decide)
    have hbyte := ht.bytes (a / 22) (a % 22) hj hi hreal
    have hbyte' := hv.bytes (a / 22) (a % 22) hj hi (h.realAt_eq hslot ▸ hreal)
    rw [Nat.div_add_mod] at hbyte hbyte'
    rw [hbyte, hbyte', h.plainAt_eq hslot]

/-- With no frame to take apart no key is needed. -/
theorem defrag_of_no_frame (p : Params) (s : State) (hlen : s.lenKnown = true) (hnfr : s.nfr.toNat = 0) :
    defrag p s = .ended s.startReceive .ok := by
  rw [defrag_of_lenKnown p s hlen, hnfr]; rfl

/-- The two runs end alike: the length cannot be, there is no frame, the key is missing, every frame passes, or one is the
first that does not. -/
theorem defrag_same (h : SameReceiveInputs p s u) (hs : Inv p s) (hu : Inv p u) :
    ∃ t v r, defrag p s = .ended t r ∧ defrag p u = .ended v r ∧ SameReception p t v := by
  have hnfr : s.nfr.toNat = u.nfr.toNat := by rw [h.nfr]
  cases hlen : s.lenKnown with
  | false =>
    exact ⟨_, _, _, defrag_of_bad_length p s hlen, defrag_of_bad_length p u (h.lenKnown_eq ▸ hlen), .start p s u⟩
  | true =>
    have hlen' : u.lenKnown = true := h.lenKnown_eq ▸ hlen
    rcases Nat.eq_zero_or_pos s.nfr.toNat with hzero | hpos
    · exact ⟨_, _, _, defrag_of_no_frame p s hlen hzero, defrag_of_no_frame p u hlen' (hnfr ▸ hzero), .start p s u⟩
    cases hk : keyValid s with
    | false =>
      have hraised := defrag_without_key p s hs hk hpos hlen
      have hraised' := defrag_without_key p u hu (h.keyValid_eq ▸ hk) (hnfr ▸ hpos) hlen'
      rw [startReceive_nfr, h.readSlot_eq hpos, h.nfr] at hraised
      exact ⟨_, _, _, hraised, hraised', (SameReception.start p s u).checked _⟩
    | true =>
      have hk' : keyValid u = true := h.keyValid_eq ▸ hk
      rcases forall_lt_or_first_failure (framePasses p s) s.nfr.toNat with hall | ⟨k, hlt, hpass, hbad⟩
      · obtain ⟨t, hdefrag, ht⟩ := defrag_of_all_pass p s hs hk hlen hall
        obtain ⟨v, hdefrag', hv⟩ := defrag_of_all_pass p u hu hk' hlen' fun i hi =>
          (h.framePasses_iff (hnfr ▸ hi)).1 (hall i (hnfr ▸ hi))
        exact ⟨t, v, .ok, hdefrag, hdefrag', ht.same h hlen le_rfl (hnfr ▸ hv)⟩
      · obtain ⟨t, hraised, ht⟩ := defrag_of_offending_frame p s hs hk hlen hlt hpass hbad
        obtain ⟨v, hraised', hv⟩ := defrag_of_offending_frame p u hu hk' hlen' (hnfr ▸ hlt)
          (fun i hi => (h.framePasses_iff (hi.trans hlt)).1 (hpass i hi)) (hbad ∘ (h.framePasses_iff hlt).2)
        rw [h.readSlot_eq hlt, ht.nfr_eq, h.nfr, ← hv.nfr_eq] at hraised
        exact ⟨_, _, _, hraised, hraised', (ht.same h hlen hlt.le hv).checked _⟩

end

/-- Settles O40. -/
theorem defragDependsOnlyOnItsInputs : Obligations.DefragDependsOnlyOnItsInputs := by
  unfold Obligations.DefragDependsOnlyOnItsInputs
  intro s u hs hu hnfr hctrl hrxlen hkey hkeyw hframes
  obtain ⟨t, v, r, hdefrag, hdefrag', hsame⟩ := defrag_same ⟨hnfr, hctrl, hrxlen, hkey, hkeyw, hframes⟩ hs hu
  refine ⟨writeBack r t, writeBack r v, (exec_eq_next .defrag s _).2 ⟨t, r, hdefrag, rfl⟩,
    (exec_eq_next .defrag u _).2 ⟨v, r, hdefrag', rfl⟩, rfl, hsame.fidx, hsame.outlen, fun a ha => ?_⟩
  rw [pmemByte_writeBack, pmemByte_writeBack]
  exact hsame.bytes a ha

end Sys2Proof.Machine
end
